-- ==== Sys2Proof/Word.lean ====
section
/-! DEFINITION. The widths of the machine's data (00_scope.md R6 to R11): a byte, a 32-bit register, a 16-byte block. -/

namespace Sys2Proof

/-- An 8-bit unsigned byte; bit 7 is the most significant (R8). -/
abbrev Byte := BitVec 8

/-- A 32-bit register, location address or host-port data word (R7: LEN_W = ADDR_W = DATA_W = 32). -/
abbrev Word := BitVec 32

/-- A block: exactly 16 bytes `S[0..15]` (R11). Element `S[r + 4*c]` is row r, column c of the matrix view. -/
abbrev Block := Vector Byte 16

/-- The eleven round keys `RK[0..10]` (10_state.md R35). -/
abbrev KeySchedule := Vector Block 11

/-- Sixteen bytes 0x00: the reset value of KEY and IV, and the IV of an ECB context (R39, R163). -/
def zeroBlock : Block := #v[0, 0, 0, 0, 0, 0, 0, 0, 0, 0, 0, 0, 0, 0, 0, 0]

end Sys2Proof
end

