-- ==== Sys2Proof/Syntax.lean ====
section
/-! DEFINITION. The commands of the core and the fields of a command word (30_encoding.md R80, R81). -/

namespace Sys2Proof

/-- The four commands of the opcode map (R81). "No command has an immediate or an explicit operand field" (R82), so no
constructor has an argument. -/
inductive Instr where
  /-- INIT_ECB, command word 0x00000001 (45_mode_commands.md R163). -/
  | initEcb
  /-- INIT_CBC, command word 0x00000002 (R164). -/
  | initCbc
  /-- ENCRYPT, command word 0x00000003 (R165). -/
  | encrypt
  /-- DECRYPT, command word 0x00000004 (R166). -/
  | decrypt
  deriving DecidableEq, Repr

/-- Format C (R80): the two fields of any 32-bit word written to CMD. -/
structure CommandWord where
  /-- Bits 31:8, "must be 0x000000". -/
  rsvd : BitVec 24
  /-- Bits 7:0, the opcode. -/
  opc : BitVec 8
  deriving DecidableEq, Repr

end Sys2Proof
end

