-- ==== Sys2Proof/WellFormed.lean ====
section
/-! DEFINITION. When a command word is one of the four commands (30_encoding.md R80, R81, R83). -/

namespace Sys2Proof

/-- The reserved field must be zero (R80). -/
def CommandWord.reservedZero (c : CommandWord) : Bool := c.rsvd == 0

/-- The opcode must be one of the map (R81): 0x01 to 0x04. -/
def CommandWord.opcodeKnown (c : CommandWord) : Bool := c.opc == 0x01 || c.opc == 0x02 || c.opc == 0x03 || c.opc == 0x04

/-- A command word is well formed when both checks pass; every other word is illegal (R83). -/
def CommandWord.wellFormed (c : CommandWord) : Bool := c.reservedZero && c.opcodeKnown

/-- The format C fields that stand for a command (R81, the column "command word"). -/
def Instr.fields (i : Instr) : CommandWord :=
  match i with
  | .initEcb => { rsvd := 0, opc := 0x01 }
  | .initCbc => { rsvd := 0, opc := 0x02 }
  | .encrypt => { rsvd := 0, opc := 0x03 }
  | .decrypt => { rsvd := 0, opc := 0x04 }

/-- An instruction is well formed when its command word is; the four commands have no operand that could be out of
range (R82), so every one is (Laws/PerInstr.lean). -/
def Instr.wellFormed (i : Instr) : Bool := i.fields.wellFormed

end Sys2Proof
end

