-- ==== Sys2Proof/Decode.lean ====
section
/-! DEFINITION. Decoding a word written to CMD, and the encoder (30_encoding.md R80, R81, R83; 45_mode_commands.md R162). -/

namespace Sys2Proof

/-- Why a word is no command. Both reasons end in the IllegalCommand error of the machine (60_exceptions.md R205). -/
inductive DecodeError where
  /-- Bits 31:8 are not zero (R83: "any word with `rsvd` != 0"). -/
  | reservedField
  /-- Bits 31:8 are zero and the opcode is outside 0x01..0x04 (R83). -/
  | unknownOpcode
  deriving DecidableEq, Repr

/-- Bits 31:8 of a command word (R80). -/
def rsvdField (w : Word) : BitVec 24 := w.extractLsb' 8 24

/-- Bits 7:0 of a command word (R80). -/
def opcField (w : Word) : BitVec 8 := w.extractLsb' 0 8

/-- The decoder of R81: "if w[31:8] != 0 then illegal else case w[7:0] of 0x01 INIT_ECB, 0x02 INIT_CBC, 0x03 ENCRYPT,
0x04 DECRYPT, otherwise illegal". Total on every 32-bit word. -/
def decode (w : Word) : Except DecodeError Instr :=
  if rsvdField w ≠ 0 then .error .reservedField
  else if opcField w = 0x01 then .ok .initEcb
  else if opcField w = 0x02 then .ok .initCbc
  else if opcField w = 0x03 then .ok .encrypt
  else if opcField w = 0x04 then .ok .decrypt
  else .error .unknownOpcode

/-- A command word from its two fields, rsvd in bits 31:8 and opc in bits 7:0 (R80). -/
def CommandWord.toWord (c : CommandWord) : Word := c.rsvd ++ c.opc

/-- The command word of each command (R81). -/
def encode (i : Instr) : Word := i.fields.toWord

/-- The host's entry: the instruction the decoder reads from an instruction of `nbits` bits whose bits are `w` and whose
other bits are 0. A command is one 32-bit word (R84), moved whole (20_memory.md R54), so there is no byte layout; bits
above 31 belong to no command. -/
def decodeTableWord (nbits w : Nat) : Option Instr :=
  let v := w % 2 ^ nbits
  if v < 2 ^ 32 then
    match decode (BitVec.ofNat 32 v) with
    | .ok i => some i
    | .error _ => none
  else none

end Sys2Proof
end

