-- ==== Sys2Proof/Machine/Field.lean ====
section
/-! DEFINITION. Unit 1: the GF(2^8) multiplier (40_field_arithmetic.md R100 to R103). -/

namespace Sys2Proof.Machine

/-- Doubling in the field (R100): bit 7 is sampled, the shift drops it, and 0x1B is XORed in when it was 1. -/
def xtime (a : Byte) : Byte :=
  if a.getLsbD 7 then (a <<< 1) ^^^ 0x1B else a <<< 1

/-- The loop of R101 with `n` steps to go: step k = 8 - n tests bit k of `b`, adds the running `a` into `p` when it is
set, and doubles `a`. -/
def multiplyLoop (b : Byte) : Nat → Byte → Byte → Byte
  | 0, _, p => p
  | n + 1, a, p => multiplyLoop b n (xtime a) (if b.getLsbD (7 - n) then p ^^^ a else p)

/-- `multiply(a, b)` (R101); the matrix coefficient is the first operand (R102). -/
def multiply (a b : Byte) : Byte := multiplyLoop b 8 a 0

/-- XOR of two 16-byte sequences, byte by byte (R10, R103). -/
def xorBlock (x y : Block) : Block := Vector.ofFn fun k => x[k] ^^^ y[k]

end Sys2Proof.Machine
end

