-- ==== Sys2Proof/Machine/Round.lean ====
section
/-! DEFINITION. Unit 3: the round transform and the whole-block operations (42_round_transform.md R119 to R130). Every
operation is a function from the old block to a new one (R119). -/

namespace Sys2Proof.Machine

/-- SubBytes (R120): `S'[k] = SBOX[S[k]]`. -/
def subBytes (s : Block) : Block := Vector.ofFn fun k => subByte s[k]

/-- InvSubBytes (R121): `S'[k] = INV_SBOX[S[k]]`. -/
def invSubBytes (s : Block) : Block := Vector.ofFn fun k => invSubByte s[k]

/-- ShiftRows (R122): `S'[k] = S[(k + 4*(k mod 4)) mod 16]`; arithmetic on `Fin 16` is mod 16. -/
def shiftRows (s : Block) : Block := Vector.ofFn fun k => s[k + 4 * (k % 4)]

/-- InvShiftRows (R123): `S'[k] = S[(k - 4*(k mod 4)) mod 16]`, taken in 0..15. -/
def invShiftRows (s : Block) : Block := Vector.ofFn fun k => s[k - 4 * (k % 4)]

/-- A 4 by 4 matrix of coefficients; entry i, j multiplies byte j of the column for output byte i (R124). -/
abbrev Coefficients := Vector (Vector Byte 4) 4

/-- The forward matrix of R124. -/
def mixMatrix : Coefficients :=
  #v[#v[0x02, 0x03, 0x01, 0x01], #v[0x01, 0x02, 0x03, 0x01], #v[0x01, 0x01, 0x02, 0x03], #v[0x03, 0x01, 0x01, 0x02]]

/-- The inverse matrix of R125. -/
def invMixMatrix : Coefficients :=
  #v[#v[0x0E, 0x0B, 0x0D, 0x09], #v[0x09, 0x0E, 0x0B, 0x0D], #v[0x0D, 0x09, 0x0E, 0x0B], #v[0x0B, 0x0D, 0x09, 0x0E]]

/-- One output byte of column mixing: the XOR of four field products of a matrix row with a column (R124). -/
def mixByte (row : Vector Byte 4) (c0 c1 c2 c3 : Byte) : Byte :=
  multiply row[0] c0 ^^^ multiply row[1] c1 ^^^ multiply row[2] c2 ^^^ multiply row[3] c3

/-- Column mixing with a matrix: output byte `4c + i` is row i applied to the bytes `S[4c..4c+3]` (R124, R125). -/
def mixWith (m : Coefficients) (s : Block) : Block :=
  Vector.ofFn fun k =>
    let c := 4 * (k / 4)
    mixByte m[Fin.ofNat 4 k.val] s[c] s[c + 1] s[c + 2] s[c + 3]

/-- MixColumns (R124). -/
def mixColumns (s : Block) : Block := mixWith mixMatrix s

/-- InvMixColumns (R125). -/
def invMixColumns (s : Block) : Block := mixWith invMixMatrix s

/-- AddRoundKey (R126): `S'[k] = S[k] ^ K[k]`. -/
def addRoundKey (s k : Block) : Block := xorBlock s k

/-- The numbers of the full rounds, 1 to 9 ascending (R127). -/
def fullRounds : List (Fin 11) := [1, 2, 3, 4, 5, 6, 7, 8, 9]

/-- One full round (R127): substitute, rotate, mix columns, mix in the round key. -/
def fullRound (rk : KeySchedule) (s : Block) (i : Fin 11) : Block :=
  addRoundKey (mixColumns (shiftRows (subBytes s))) rk[i]

/-- One full round undone (R128): key, inverse column mixing, inverse rotation, inverse substitution. -/
def invFullRound (rk : KeySchedule) (s : Block) (i : Fin 11) : Block :=
  invSubBytes (invShiftRows (invMixColumns (addRoundKey s rk[i])))

/-- EncryptBlock (R127). -/
def encryptBlock (s : Block) (rk : KeySchedule) : Block :=
  let s := addRoundKey s rk[0]
  let s := fullRounds.foldl (fullRound rk) s
  addRoundKey (shiftRows (subBytes s)) rk[10]

/-- DecryptBlock (R128): rounds 9 down to 1. -/
def decryptBlock (s : Block) (rk : KeySchedule) : Block :=
  let s := invSubBytes (invShiftRows (addRoundKey s rk[10]))
  let s := fullRounds.reverse.foldl (invFullRound rk) s
  addRoundKey s rk[0]

end Sys2Proof.Machine
end

