-- ==== Sys2Proof/Machine/Chaining.lean ====
section
/-! DEFINITION. Unit 5: the ECB and CBC chaining of blocks (45_mode_commands.md R167 to R170). PREV and the block index
are local to one command (10_state.md R34); a message is the list of its 16-byte windows in ascending order (R58). -/

namespace Sys2Proof.Machine

/-- "every consecutive 16-byte window" of a byte sequence: window i is bytes 16i to 16i+15 (20_memory.md R58, R59). A tail
shorter than 16 bytes is no window; the lengths the commands check leave none. -/
def windows : List Byte → List Block
  | b0 :: b1 :: b2 :: b3 :: b4 :: b5 :: b6 :: b7 :: b8 :: b9 :: b10 :: b11 :: b12 :: b13 :: b14 :: b15 :: rest =>
    #v[b0, b1, b2, b3, b4, b5, b6, b7, b8, b9, b10, b11, b12, b13, b14, b15] :: windows rest
  | _ => []

/-- The bytes of consecutive blocks, in buffer order (R58). -/
def blockBytes (bs : List Block) : List Byte := bs.flatMap Vector.toList

/-- ECB encryption (R167): each block independently. -/
def ecbEncrypt (rk : KeySchedule) (bs : List Block) : List Block := bs.map fun b => encryptBlock b rk

/-- CBC encryption from the chaining value `prev` (R168): the block XOR `prev` is encrypted, and the result is the next
chaining value. -/
def cbcEncrypt (rk : KeySchedule) : Block → List Block → List Block
  | _, [] => []
  | prev, b :: bs =>
    let c := encryptBlock (xorBlock b prev) rk
    c :: cbcEncrypt rk c bs

/-- ECB decryption (R169). -/
def ecbDecrypt (rk : KeySchedule) (cs : List Block) : List Block := cs.map fun c => decryptBlock c rk

/-- CBC decryption from the chaining value `prev` (R170): the decrypted block XOR `prev`; the ciphertext block is the next
chaining value. -/
def cbcDecrypt (rk : KeySchedule) : Block → List Block → List Block
  | _, [] => []
  | prev, c :: cs => xorBlock (decryptBlock c rk) prev :: cbcDecrypt rk c cs

end Sys2Proof.Machine
end

