-- ==== Sys2Proof/Config.lean ====
section
/-! DEFINITION. What an implementation of the core fixes (CAP) and the values the spec leaves unspecified. -/

namespace Sys2Proof.Config

/-- The buffer capacity CAP of an instance (00_scope.md R7: "a multiple of 16 with 32 <= CAP <= 2^30; the model takes
it as an argument"). Every value of this type is a legal CAP and every legal CAP is a value of it
(Laws/Config.lean). Log 2. -/
structure Capacity where
  /-- CAP / 16 - 2. -/
  index : Fin 67108863
  deriving DecidableEq, Repr

/-- CAP in bytes. -/
def Capacity.bytes (c : Capacity) : Nat := 16 * (c.index.val + 2)

/-- CAP = 4096, the value of the spec's examples (R7, 95_test_vectors.md section 1). -/
def Capacity.example4096 : Capacity := ⟨254⟩

/-- The value of the `n`-th free word: what a host read of an unspecified location returns
(20_memory.md R56: "any value, possibly different on each read"). No proof can see it. Log 3. -/
opaque unspecifiedWord : Nat → Word

/-- The value a command reads from the IBUF byte at an index that has not been written since reset
(70_reset_and_hazards.md R234): "any value, fixed from reset until first written" (93_implementation_defined.md U3). The
first argument is the number of resets so far, the second is the byte's index. Log 4. -/
opaque unwrittenByte : Nat → Nat → Byte

/-- The value an OBUF byte below OLEN would read as if no command had written it. No run reaches such a read: in every
state that meets the invariant of Safety.lean each OBUF byte below OLEN is listed. Log 5. -/
opaque unwrittenOutput : Nat → Nat → Byte

end Sys2Proof.Config
end

