-- ==== Sys2Proof/Machine/State.lean ====
section
/-! DEFINITION. The state of the machine (10_state.md), the reasons a step can stop, and the state after reset. -/

namespace Sys2Proof.Machine

/-- A byte buffer (IBUF or OBUF) as a list of (index, byte) pairs, indices strictly rising. An index that is not listed
holds no defined byte: nothing has written it since reset (R30, R31, R39). Log 10. -/
abbrev Memory := List Host.Cell

/-- The context variant CTX (R23): 0 NONE, 1 ECB, 2 CBC; "the value 3 is never produced". -/
inductive Ctx where
  | none
  | ecb
  | cbc
  deriving DecidableEq, Repr

/-- The three bits of STATUS (R24). Bits 31:3 are constant 0 and are not stored. -/
structure Status where
  /-- Bit 0: "a command has been issued and has not completed". -/
  busy : Bool
  /-- Bit 1: "the last issued command has completed". -/
  done : Bool
  /-- Bit 2: "the last completed command failed". -/
  err : Bool
  deriving DecidableEq, Repr

/-- The error kinds (60_exceptions.md R200 to R205). -/
inductive ErrorKind where
  | lengthMismatch
  | invalidPadding
  | contractViolation
  | noContext
  | capacityExceeded
  | illegalCommand
  deriving DecidableEq, Repr

/-- The contents of ERRCODE (R25): 0 OK, or the code of an error; code 7 is unrepresentable (U7). -/
inductive ErrCode where
  | ok
  | failed (k : ErrorKind)
  deriving DecidableEq, Repr

/-- One host operation still to come (20_memory.md R55, R56; 70_reset_and_hazards.md R230; 30_encoding.md R87). -/
inductive HostOp where
  /-- HostWrite(a, v). -/
  | write (a v : Word)
  /-- HostRead(a). -/
  | read (a : Word)
  /-- `rst` asserted for one cycle. -/
  | reset
  /-- The script's `wait`: read STATUS until bit 0 of the value read is 0 (R87). -/
  | wait
  deriving DecidableEq, Repr

/-- The two agents (20_memory.md R62). -/
inductive Agent where
  | host
  | core
  deriving DecidableEq, Repr

/-- Reasons for the machine to stop with a fault. There is none: "There is no fatal, double-fault or lock-up state"
(60_exceptions.md R214); the errors of R200 to R205 are completions, hence next states. Log 15. -/
inductive Fault
  deriving DecidableEq, Repr

/-- Reasons to give no meaning. -/
inductive Refusal where
  /-- Raised only by an arm of `exec` whose instruction has no meaning yet (safe: nothing can be proved of it). No arm of
  this model raises it. -/
  | notModelled (mnemonic : String)
  deriving DecidableEq, Repr

/-- The machine's state. The first group is the spec's (10_state.md R20: "The state of the core is exactly"), then the
port's read data, then the model's own fields. -/
structure State where
  /-- KEY, 16 bytes (R21). -/
  key : Block
  /-- IV, 16 bytes (R22). -/
  iv : Block
  /-- CTX (R23). -/
  ctx : Ctx
  /-- STATUS (R24). -/
  status : Status
  /-- ERRCODE (R25). -/
  errcode : ErrCode
  /-- KLEN (R27). -/
  klen : Word
  /-- VLEN (R27). -/
  vlen : Word
  /-- ILEN (R28). -/
  ilen : Word
  /-- XLEN (R28). -/
  xlen : Word
  /-- OLEN (R29). -/
  olen : Word
  /-- CMDR, the latched command word (R33). -/
  cmdr : Word
  /-- IBUF (R30). -/
  ibuf : Memory
  /-- OBUF (R31), with the bytes the core's own writes left at and above OLEN too. Log 5. -/
  obuf : Memory
  /-- The port's `h_rdata` (20_memory.md R53): the value the latest HostRead returned. Log 6. -/
  hRdata : Word
  /-- The model's own: the instance's CAP, written by no step (R7, R37). Log 2. -/
  cap : Config.Capacity
  /-- The model's own: how many free values have been used (the argument of Config's opaque constants). Log 3. -/
  fresh : Nat
  /-- The model's own: how many resets have been taken, which names the unknown contents of IBUF since the last. Log 4. -/
  resets : Nat
  /-- The model's own: the host operations still to come, oldest first. Log 1. -/
  host : List HostOp
  /-- The model's own: which agent moves at each coming step. Log 1. -/
  turns : List Agent
  deriving DecidableEq, Repr

/-- The state after reset (10_state.md R39, 70_reset_and_hazards.md R230). `cap`, `fresh`, `resets`, `hRdata`, `host`
and `turns` are the model's choice (Log 1, 2, 3, 4, 6). -/
def State.reset : State where
  key := zeroBlock
  iv := zeroBlock
  ctx := .none
  status := { busy := false, done := false, err := false }
  errcode := .ok
  klen := 0
  vlen := 0
  ilen := 0
  xlen := 0
  olen := 0
  cmdr := 0
  ibuf := []
  obuf := []
  hRdata := 0
  cap := Config.Capacity.example4096
  fresh := 0
  resets := 0
  host := []
  turns := []

end Sys2Proof.Machine
end

