-- ==== Sys2Proof/Machine/Flags.lean ====
section
/-! DEFINITION. STATUS, ERRCODE, CTXR and the pins: how each is computed, and the values STATUS takes at issue and at
completion (10_state.md R24 to R26; 45_mode_commands.md R160, R161; 60_exceptions.md R200 to R206, R210). -/

namespace Sys2Proof.Machine

/-- The number of an error kind (10_state.md R25). -/
def ErrorKind.code (k : ErrorKind) : Nat :=
  match k with
  | .lengthMismatch => 1
  | .invalidPadding => 2
  | .contractViolation => 3
  | .noContext => 4
  | .capacityExceeded => 5
  | .illegalCommand => 6

/-- ERRCODE as the 32-bit value a read returns: bits 2:0 the code, bits 31:3 zero (R25). -/
def errcodeWord (c : ErrCode) : Word :=
  match c with
  | .ok => 0
  | .failed k => BitVec.ofNat 32 k.code

/-- CTXR as the 32-bit value a read returns: bits 1:0 CTX, bits 31:2 zero (R26). -/
def ctxrWord (c : Ctx) : Word :=
  match c with
  | .none => 0
  | .ecb => 1
  | .cbc => 2

/-- STATUS as the 32-bit value a read returns: bit 0 BUSY, bit 1 DONE, bit 2 ERR, bits 31:3 zero (R24). -/
def statusWord (t : Status) : Word :=
  (0 : BitVec 29) ++ BitVec.ofBool t.err ++ BitVec.ofBool t.done ++ BitVec.ofBool t.busy

/-- STATUS at command issue (R160): BUSY set, DONE and ERR cleared. -/
def statusAtIssue : Status := { busy := true, done := false, err := false }

/-- STATUS at a completion without error (R161). -/
def statusAtSuccess : Status := { busy := false, done := true, err := false }

/-- STATUS at a completion with an error (R161, R206). -/
def statusAtError : Status := { busy := false, done := true, err := true }

/-- The output pin `busy` (R210). -/
def pinBusy (s : State) : Bool := s.status.busy

/-- The output pin `done` (R210). -/
def pinDone (s : State) : Bool := s.status.done

/-- The output pin `err` (R210). -/
def pinErr (s : State) : Bool := s.status.err

end Sys2Proof.Machine
end

