-- ==== Sys2Proof/Machine/Ops.lean ====
section
/-! DEFINITION. The shared operations on buffers and registers: one byte read and written, command issue, completion
without and with an error, and reset. -/

namespace Sys2Proof.Machine

/-! ## Buffers -/

/-- The canonical form of a buffer: indices strictly rising. Every listed byte differs from what an unlisted index reads
as, which is no byte at all (Log 10). -/
abbrev Memory.wf (m : Memory) : Prop := m.Pairwise fun x y => x.1 < y.1

/-- Every listed index is below `n`. -/
abbrev Memory.below (m : Memory) (n : Nat) : Prop := ∀ c ∈ m, c.1 < n

/-- One byte of a buffer; none where nothing has been written since reset. This is the one definition of what an unlisted
index reads as (Log 10). -/
def Memory.read : Memory → Nat → Option Byte
  | [], _ => none
  | (k, b) :: m, i => if k = i then some b else Memory.read m i

/-- `B[i] <- b`, keeping the indices strictly rising. -/
def Memory.write : Memory → Nat → Byte → Memory
  | [], i, b => [(i, b)]
  | (k, c) :: m, i, b =>
    if i < k then (i, b) :: (k, c) :: m
    else if i = k then (i, b) :: m
    else (k, c) :: Memory.write m i b

/-- `MemWrite(space, i, n, v)` (00_scope.md R12): consecutive bytes from index `i` upward. -/
def Memory.writeBytes (m : Memory) (i : Nat) : List Byte → Memory
  | [] => m
  | b :: bs => Memory.writeBytes (Memory.write m i b) (i + 1) bs

/-! ## Registers -/

/-- The context registers written together by a successful INIT (45_mode_commands.md R163, R164). -/
def setContext (key iv : Block) (ctx : Ctx) (s : State) : State := { s with key := key, iv := iv, ctx := ctx }

/-- The result bytes of a command, written to OBUF from index 0 upward (20_memory.md R61). -/
def storeOutput (bs : List Byte) (s : State) : State := { s with obuf := Memory.writeBytes s.obuf 0 bs }

/-! ## The command lifecycle -/

/-- Command issue (45_mode_commands.md R160): the word is latched in CMDR, BUSY set, DONE, ERR, ERRCODE and OLEN cleared;
"Nothing else changes at issue". -/
def issue (w : Word) (s : State) : State :=
  { s with cmdr := w, status := statusAtIssue, errcode := .ok, olen := 0 }

/-- Completion without error, with the result length `olen` (R161). -/
def succeed (olen : Word) (s : State) : State :=
  { s with status := statusAtSuccess, errcode := .ok, olen := olen }

/-- Error entry (60_exceptions.md R206): ERRCODE <- code, ERR <- 1, DONE <- 1, BUSY <- 0, OLEN <- 0. Nothing is saved and
there is no handler, so the core is idle again. There is no return from an error (R208): the next `issue` clears it. -/
def fail (k : ErrorKind) (s : State) : State :=
  { s with status := statusAtError, errcode := .failed k, olen := 0 }

/-- The completion of a word that is no command (R162, R205): IllegalCommand, "changing nothing else". -/
def completeIllegal (s : State) : Host.Outcome State Fault Refusal := .next (fail .illegalCommand s)

/-- The Reset step (70_reset_and_hazards.md R230, R231), the same from every state. The bytes of IBUF and OBUF become
unspecified: nothing is listed, and one more reset is counted, so that what a command reads there is a new free value
(Log 4). The model's other fields and the port's read data are not the core's and stay (Log 11). -/
def resetStep (s : State) : State :=
  { State.reset with
    hRdata := s.hRdata, cap := s.cap, fresh := s.fresh, resets := s.resets + 1, host := s.host, turns := s.turns }

end Sys2Proof.Machine
end

