-- ==== Sys2Proof/Machine/Padding.lean ====
section
/-! DEFINITION. PKCS7 padding and unpadding (44_padding.md R150 to R154). Lengths are natural numbers and never wrap. -/

namespace Sys2Proof.Machine

/-- padLength (R150). -/
def padLength (n : Nat) : Nat := if n % 16 ≠ 0 then 16 - n % 16 else 16

/-- paddedLength (R151), not reduced modulo 2^32 (R154). -/
def paddedLength (n : Nat) : Nat := n + padLength n

/-- The padding bytes Pad(n) writes after an n-byte plaintext (R152): padLength(n) bytes of that value. -/
def padBytes (n : Nat) : List Byte := List.replicate (padLength n) (BitVec.ofNat 8 (padLength n))

/-- RemovePadding (R153) on a whole decrypted buffer (90_conflicts.md C2): the plaintext's length, or InvalidPadding when
there is no last byte (92_eei_decisions.md D24), when the last byte p is 0, above 16 or above the buffer's length, or when
the last p bytes are not all p. -/
def removePadding (buf : List Byte) : Except ErrorKind Nat :=
  match buf.getLast? with
  | none => .error .invalidPadding
  | some p =>
    if p.toNat = 0 then .error .invalidPadding
    else if 16 < p.toNat then .error .invalidPadding
    else if buf.length < p.toNat then .error .invalidPadding
    else if (buf.drop (buf.length - p.toNat)).all (· == p) then .ok (buf.length - p.toNat)
    else .error .invalidPadding

end Sys2Proof.Machine
end

