-- ==== Sys2Proof/Machine/Operands.lean ====
section
/-! DEFINITION. The implicit operands of the commands (30_encoding.md R82): lengths as natural numbers, key and IV
material, the message bytes and their blocks. -/

namespace Sys2Proof.Machine

/-- One IBUF byte as a command reads it. A byte never written since reset has an unspecified value (R234), the same one
until the next reset or its first write (U3): a free value, not a number of the model's (Log 4). -/
def ibufByte (s : State) (i : Nat) : Byte := (Memory.read s.ibuf i).getD (Config.unwrittenByte s.resets i)

/-- `IBUF[0..n-1]`. -/
def ibufBytes (s : State) (n : Nat) : List Byte := (List.range n).map (ibufByte s)

/-- Block i of IBUF: bytes 16i to 16i+15 (20_memory.md R58). -/
def ibufBlock (s : State) (i : Nat) : Block := Vector.ofFn fun k => ibufByte s (16 * i + k.val)

/-- The key material: `IBUF[0..15]` (R58 (e)). -/
def keyOperand (s : State) : Block := ibufBlock s 0

/-- The IV material: `IBUF[16..31]` (R58 (e)). -/
def ivOperand (s : State) : Block := ibufBlock s 1

/-- ILEN as a natural number (44_padding.md R154). -/
def inputLength (s : State) : Nat := s.ilen.toNat

/-- XLEN, the expected output length, as a natural number (R154). -/
def expectedLength (s : State) : Nat := s.xlen.toNat

/-- "exactly 16 bytes": the contract on KLEN and VLEN (R27, R202). -/
def isSixteen (len : Word) : Bool := len.toNat == 16

/-- The plaintext copied and padded (45_mode_commands.md R167): `IBUF[0..ILEN-1]` and then the padding bytes. -/
def paddedMessage (s : State) : List Byte := ibufBytes s (inputLength s) ++ padBytes (inputLength s)

/-- The ciphertext `IBUF[0..ILEN-1]` of DECRYPT. -/
def ciphertext (s : State) : List Byte := ibufBytes s (inputLength s)

end Sys2Proof.Machine
end

