-- ==== Sys2Proof/Machine/Context.lean ====
section
/-! DEFINITION. The context commands INIT_ECB and INIT_CBC (45_mode_commands.md R163, R164). -/

namespace Sys2Proof.Machine

/-- INIT_ECB (R163): ContractViolation when KLEN is not 16, KEY, IV and CTX then unchanged; else KEY is `IBUF[0..15]`, IV
is sixteen 0x00, CTX is ECB, and the result length is 0. VLEN is not read. -/
def execInitEcb (s : State) : Host.Outcome State Fault Refusal :=
  if isSixteen s.klen then .next (succeed 0 (setContext (keyOperand s) zeroBlock .ecb s))
  else .next (fail .contractViolation s)

/-- INIT_CBC (R164): ContractViolation when KLEN or VLEN is not 16; else KEY is `IBUF[0..15]`, IV is `IBUF[16..31]`, CTX is
CBC, and the result length is 0. -/
def execInitCbc (s : State) : Host.Outcome State Fault Refusal :=
  if isSixteen s.klen && isSixteen s.vlen then .next (succeed 0 (setContext (keyOperand s) (ivOperand s) .cbc s))
  else .next (fail .contractViolation s)

end Sys2Proof.Machine
end

