-- ==== Sys2Proof/Machine/KeySchedule.lean ====
section
/-! DEFINITION. Unit 4: the key schedule expander (43_key_schedule.md R140; word 0 is XORed with T, 90_conflicts.md C1). -/

namespace Sys2Proof.Machine

/-- Round key r from `p`, round key r-1, and the round constant of round r (R140 pseudocode): T is the last word rotated
left by one byte and substituted, with the constant XORed into its first byte; word 0 is word 0 of `p` XOR T, and each
later word is the same word of `p` XOR the word just made. -/
def nextRoundKey (p : Block) (rc : Byte) : Block :=
  let k0 := p[0] ^^^ (subByte p[13] ^^^ rc)
  let k1 := p[1] ^^^ subByte p[14]
  let k2 := p[2] ^^^ subByte p[15]
  let k3 := p[3] ^^^ subByte p[12]
  let k4 := p[4] ^^^ k0
  let k5 := p[5] ^^^ k1
  let k6 := p[6] ^^^ k2
  let k7 := p[7] ^^^ k3
  let k8 := p[8] ^^^ k4
  let k9 := p[9] ^^^ k5
  let k10 := p[10] ^^^ k6
  let k11 := p[11] ^^^ k7
  #v[k0, k1, k2, k3, k4, k5, k6, k7, k8, k9, k10, k11, p[12] ^^^ k8, p[13] ^^^ k9, p[14] ^^^ k10, p[15] ^^^ k11]

/-- ExpandKey (R140): round key 0 is the key; round r uses `RCON[r-1]`. -/
def expandKey (key : Block) : KeySchedule :=
  let r1 := nextRoundKey key (rcon 0)
  let r2 := nextRoundKey r1 (rcon 1)
  let r3 := nextRoundKey r2 (rcon 2)
  let r4 := nextRoundKey r3 (rcon 3)
  let r5 := nextRoundKey r4 (rcon 4)
  let r6 := nextRoundKey r5 (rcon 5)
  let r7 := nextRoundKey r6 (rcon 6)
  let r8 := nextRoundKey r7 (rcon 7)
  let r9 := nextRoundKey r8 (rcon 8)
  #v[key, r1, r2, r3, r4, r5, r6, r7, r8, r9, nextRoundKey r9 (rcon 9)]

end Sys2Proof.Machine
end

