-- ==== Sys2Proof/Machine/Message.lean ====
section
/-! DEFINITION. The message commands ENCRYPT and DECRYPT (45_mode_commands.md R165 to R170). -/

namespace Sys2Proof.Machine

/-- ENCRYPT once the context is known (R165): the length checks in the order LengthMismatch, CapacityExceeded, both on
natural numbers and before any byte is read; then the padded message's windows go through the chaining strategy, the
result is written to OBUF and OLEN is XLEN. -/
def encryptWith (chain : List Block → List Block) (s : State) : State :=
  if expectedLength s ≠ paddedLength (inputLength s) then fail .lengthMismatch s
  else if s.cap.bytes < expectedLength s then fail .capacityExceeded s
  else succeed s.xlen (storeOutput (blockBytes (chain (windows (paddedMessage s)))) s)

/-- ENCRYPT (R165): NoContext first; the strategy is the one of CTX, R167 or R168, with RK = ExpandKey(KEY). -/
def execEncrypt (s : State) : Host.Outcome State Fault Refusal :=
  match s.ctx with
  | .none => .next (fail .noContext s)
  | .ecb => .next (encryptWith (ecbEncrypt (expandKey s.key)) s)
  | .cbc => .next (encryptWith (cbcEncrypt (expandKey s.key) s.iv) s)

/-- The end of DECRYPT (R166): the decrypted, still padded bytes are in OBUF; RemovePadding gives the plaintext length or
InvalidPadding, after which the bytes written stay but OLEN is 0 (60_exceptions.md R201). -/
def finishDecrypt (out : List Byte) (s : State) : State :=
  match removePadding out with
  | .error k => fail k (storeOutput out s)
  | .ok m => succeed (BitVec.ofNat 32 m) (storeOutput out s)

/-- DECRYPT once the context is known (R166): LengthMismatch unless ILEN is a nonzero multiple of 16, then
CapacityExceeded, both before any byte is read; then the ciphertext's windows go through the chaining strategy. -/
def decryptWith (chain : List Block → List Block) (s : State) : State :=
  if inputLength s = 0 ∨ inputLength s % 16 ≠ 0 then fail .lengthMismatch s
  else if s.cap.bytes < inputLength s then fail .capacityExceeded s
  else finishDecrypt (blockBytes (chain (windows (ciphertext s)))) s

/-- DECRYPT (R166): NoContext first; the strategy is the one of CTX, R169 or R170, with RK = ExpandKey(KEY). XLEN is not
read. -/
def execDecrypt (s : State) : Host.Outcome State Fault Refusal :=
  match s.ctx with
  | .none => .next (fail .noContext s)
  | .ecb => .next (decryptWith (ecbDecrypt (expandKey s.key)) s)
  | .cbc => .next (decryptWith (cbcDecrypt (expandKey s.key) s.iv) s)

end Sys2Proof.Machine
end

