-- ==== Sys2Proof/Machine/Dispatch.lean ====
section
/-! DEFINITION. One arm per command (45_mode_commands.md R162). -/

namespace Sys2Proof.Machine

/-- The completion of a legal command: its effect, and STATUS, ERRCODE and OLEN as R161 says. -/
def exec (i : Instr) (s : State) : Host.Outcome State Fault Refusal :=
  match i with
  | .initEcb => Sys2Proof.Machine.execInitEcb s
  | .initCbc => Sys2Proof.Machine.execInitCbc s
  | .encrypt => Sys2Proof.Machine.execEncrypt s
  | .decrypt => Sys2Proof.Machine.execDecrypt s

end Sys2Proof.Machine
end

