-- ==== Sys2Proof/Machine/HostPort.lean ====
section
/-! DEFINITION. The host port: the location map, HostWrite and HostRead (20_memory.md R50 to R57). -/

namespace Sys2Proof.Machine

/-! ## The location map (R51)

The register window: 0x0 CMD (write-only), 0x1 STATUS, 0x2 ERRCODE, 0x3 CTXR (read-only), 0x4 KLEN, 0x5 VLEN, 0x6 ILEN,
0x7 XLEN (read-write), 0x8 OLEN (read-only), 0x9 to 0xF reserved. `IBUF[i]` is at IBUF_BASE + i = 0x40000000 + i and
`OBUF[i]` at OBUF_BASE + i = 0x80000000 + i, for i < CAP. Every other address is unmapped. -/

/-- The address lies in the IBUF window. -/
def inIbuf (s : State) (a : Nat) : Bool := 0x40000000 ≤ a && a < 0x40000000 + s.cap.bytes

/-- The address lies in the OBUF window. -/
def inObuf (s : State) (a : Nat) : Bool := 0x80000000 ≤ a && a < 0x80000000 + s.cap.bytes

/-! ## Writes -/

/-- `IBUF[i] <- v[7:0]`; bits 31:8 are ignored (R54). -/
def setIbufByte (i : Nat) (v : Word) (s : State) : State := { s with ibuf := Memory.write s.ibuf i (v.setWidth 8) }

/-- HostWrite(a, v) (R55 pseudocode). -/
def hostWrite (a v : Word) (s : State) : State :=
  if s.status.busy then s
  else if a.toNat = 0x00000000 then issue v s
  else if a.toNat = 0x00000004 then { s with klen := v }
  else if a.toNat = 0x00000005 then { s with vlen := v }
  else if a.toNat = 0x00000006 then { s with ilen := v }
  else if a.toNat = 0x00000007 then { s with xlen := v }
  else if inIbuf s a.toNat then setIbufByte (a.toNat - 0x40000000) v s
  else s

/-! ## Reads -/

/-- An unspecified byte: eight free bits (R56; Log 3). -/
def freeByte (s : State) : Byte := (Config.unspecifiedWord s.fresh).setWidth 8

/-- A buffer byte as the port returns it, zero-extended to 32 bits (R54). -/
def byteWord (b : Byte) : Word := b.setWidth 32

/-- What a read of `IBUF[i]` returns: exact whatever BUSY is; "a byte never written since reset: low 8 bits unspecified". -/
def readIbuf (s : State) (i : Nat) : Word := byteWord ((Memory.read s.ibuf i).getD (freeByte s))

/-- What a read of `OBUF[i]` returns while BUSY = 0: the byte for i < OLEN, else a free byte (R56, U1). -/
def readObuf (s : State) (i : Nat) : Word :=
  if i < s.olen.toNat then byteWord ((Memory.read s.obuf i).getD (Config.unwrittenOutput s.fresh i))
  else byteWord (freeByte s)

/-- HostRead(a) (R56 pseudocode): the 32-bit value returned. -/
def hostReadValue (s : State) (a : Word) : Word :=
  if a.toNat = 0x00000001 then statusWord s.status
  else if a.toNat = 0x00000000 then 0
  else if a.toNat = 0x00000004 then s.klen
  else if a.toNat = 0x00000005 then s.vlen
  else if a.toNat = 0x00000006 then s.ilen
  else if a.toNat = 0x00000007 then s.xlen
  else if inIbuf s a.toNat then readIbuf s (a.toNat - 0x40000000)
  else if s.status.busy && (a.toNat == 0x00000002 || a.toNat == 0x00000003 || a.toNat == 0x00000008) then
    Config.unspecifiedWord s.fresh
  else if s.status.busy && inObuf s a.toNat then byteWord (freeByte s)
  else if a.toNat = 0x00000002 then errcodeWord s.errcode
  else if a.toNat = 0x00000003 then ctxrWord s.ctx
  else if a.toNat = 0x00000008 then s.olen
  else if inObuf s a.toNat then readObuf s (a.toNat - 0x80000000)
  else 0

/-- The read access: `h_rdata` takes the value, and no location changes ("has no side effect on any state", R56). The free
value it may have used is spent. -/
def hostRead (a : Word) (s : State) : State := { s with hRdata := hostReadValue s a, fresh := s.fresh + 1 }

/-- `wait` (30_encoding.md R87): one read of STATUS; while the value read has bit 0 = 1 the operation stays at the front. -/
def hostWait (s : State) : State :=
  let t := hostRead 0x00000001 s
  if t.hRdata.getLsbD 0 then { t with host := .wait :: t.host } else t

/-- One host operation. -/
def hostStep (op : HostOp) (s : State) : State :=
  match op with
  | .write a v => hostWrite a v s
  | .read a => hostRead a s
  | .reset => resetStep s
  | .wait => hostWait s

end Sys2Proof.Machine
end

