-- ==== Sys2Proof/Machine/Lifecycle.lean ====
section
/-! DEFINITION. The core's Complete step, the two agents' turns, and the placing of a command (45_mode_commands.md R160 to
R162; 70_reset_and_hazards.md R236). -/

namespace Sys2Proof.Machine

/-- Complete (R161, R162): the command in CMDR is decoded and run; an illegal word fails with IllegalCommand. -/
def complete (s : State) : Host.Outcome State Fault Refusal :=
  match decode s.cmdr with
  | .ok i => exec i s
  | .error _ => completeIllegal s

/-- The core's turn: Complete is enabled iff BUSY = 1; "When BUSY = 0 the core takes no step" (R161). -/
def coreTurn (s : State) : Host.Outcome State Fault Refusal := if s.status.busy then complete s else .next s

/-- The host's turn: its oldest pending operation; with none pending the state stays (Log 8). -/
def hostTurn (s : State) : Host.Outcome State Fault Refusal :=
  match s.host with
  | [] => .next s
  | op :: rest => .next (hostStep op { s with host := rest })

/-- One event of the machine (20_memory.md R62). The list `turns` says which agent moves; when it has run out the core
moves first if it is busy, so that a command is always eventually completed (R236), and else the host does (Log 1). -/
def advance (s : State) : Host.Outcome State Fault Refusal :=
  match s.turns with
  | .core :: rest => coreTurn { s with turns := rest }
  | .host :: rest => hostTurn { s with turns := rest }
  | [] => if s.status.busy then coreTurn s else hostTurn s

/-- The state in which the command word of `nbits` bits is in flight and the core moves next: the word has been issued
(R160) and a turn of the core stands in front. A command word is 32 bits; bits of `w` at or above bit 32 have no place in
CMDR (Log 7). -/
def placeCommand (s : State) (nbits w : Nat) : State :=
  let t := issue (BitVec.ofNat 32 (w % 2 ^ nbits)) s
  { t with turns := .core :: s.turns }

end Sys2Proof.Machine
end

