-- ==== Sys2Proof/Machine/Step.lean ====
section
/-! DEFINITION. One step of the machine, and the host's entry that places a command. -/

namespace Sys2Proof.Machine

/-- One step: one event of one of the two agents (20_memory.md R62). -/
def step (s : State) : Host.Outcome State Fault Refusal := advance s

/-- The state whose very next step completes the command word `w` (Log 7). -/
def State.withFetchWord (s : State) (nbits w : Nat) : State := placeCommand s nbits w

end Sys2Proof.Machine
end

