-- ==== Sys2Proof/Machine/Script.lean ====
section
/-! DEFINITION. The host script notation: its statements and the host operations they expand to (30_encoding.md R86, R87;
00_scope.md R9 for hex strings). -/

namespace Sys2Proof.Machine

/-- `<loc>` of R86. -/
inductive Loc where
  | cmd
  | status
  | errcode
  | ctxr
  | klen
  | vlen
  | ilen
  | xlen
  | olen
  | ibuf (i : Nat)
  | obuf (i : Nat)
  deriving DecidableEq, Repr

/-- A statement of a host script: the three primitive ones (R86) and the pseudo-statements (R87). -/
inductive Stmt where
  | wr (loc : Loc) (v : Word)
  | rd (loc : Loc)
  | reset
  | cmd (i : Instr)
  | wait
  | ld (o : Nat) (bytes : List Byte)
  | ecbNew (key : List Byte)
  | cbcNew (key iv : List Byte)
  | encrypt (pt : List Byte)
  | decrypt (ct : List Byte)
  | expect (loc : Loc) (v : Word)
  | expectOutput (bytes : List Byte)
  deriving DecidableEq, Repr

/-- `addr(loc)` (R86, by 20_memory.md R51). R51 gives a buffer index an address for i < CAP only; that every larger index
goes to base + i modulo 2^32 is the model's choice (DESIGN CHOICE, Log 17). -/
def Loc.addr (l : Loc) : Word :=
  BitVec.ofNat 32 <|
    match l with
    | .cmd => 0x00000000
    | .status => 0x00000001
    | .errcode => 0x00000002
    | .ctxr => 0x00000003
    | .klen => 0x00000004
    | .vlen => 0x00000005
    | .ilen => 0x00000006
    | .xlen => 0x00000007
    | .olen => 0x00000008
    | .ibuf i => 0x40000000 + i
    | .obuf i => 0x80000000 + i

/-- The bytes of a hex string of `n` bytes read as the number `v`: byte 0 is the first pair of digits (R9). -/
def hexBytes (n v : Nat) : List Byte := (List.range n).map fun i => BitVec.ofNat 8 (v / 256 ^ (n - 1 - i))

/-- `wr <loc>, <value>` as one transaction. -/
def wrOp (l : Loc) (v : Word) : HostOp := .write l.addr v

/-- `ld IBUF[o], <hex>`: one write per byte, in order. -/
def loadOps : Nat → List Byte → List HostOp
  | _, [] => []
  | o, b :: bs => wrOp (.ibuf o) (b.setWidth 32) :: loadOps (o + 1) bs

/-- A byte count as the value of a length register. A count of 2^32 or more is reduced modulo 2^32, which is the model's
choice (DESIGN CHOICE, Log 18). -/
def lengthWord (bytes : List Byte) : Word := BitVec.ofNat 32 bytes.length

/-- The reads of `OBUF[k]` for k = o, o+1, ... -/
def outputReads (o n : Nat) : List HostOp := (List.range n).map fun k => .read (Loc.obuf (o + k)).addr

/-- The expansion of a statement (R86, R87). An `expect` is an assertion of the script about the value its read returns: it
expands to the reads it names (Log 12). A padded length of 2^32 or more, written to XLEN by `encrypt`, is reduced modulo
2^32, as `lengthWord` does (DESIGN CHOICE, Log 18); a buffer index at or above CAP is addressed as `Loc.addr` says (Log 17). -/
def Stmt.ops (t : Stmt) : List HostOp :=
  match t with
  | .wr l v => [wrOp l v]
  | .rd l => [.read l.addr]
  | .reset => [.reset]
  | .cmd i => [wrOp .cmd (encode i)]
  | .wait => [.wait]
  | .ld o bytes => loadOps o bytes
  | .ecbNew key => loadOps 0 key ++ [wrOp .klen (lengthWord key), wrOp .cmd (encode .initEcb), .wait]
  | .cbcNew key iv =>
    loadOps 0 key ++ loadOps 16 iv
      ++ [wrOp .klen (lengthWord key), wrOp .vlen (lengthWord iv), wrOp .cmd (encode .initCbc), .wait]
  | .encrypt pt =>
    loadOps 0 pt
      ++ [wrOp .ilen (lengthWord pt), wrOp .xlen (BitVec.ofNat 32 (paddedLength pt.length)), wrOp .cmd (encode .encrypt), .wait]
  | .decrypt ct => loadOps 0 ct ++ [wrOp .ilen (lengthWord ct), wrOp .cmd (encode .decrypt), .wait]
  | .expect l _ => [.read l.addr]
  | .expectOutput bytes => outputReads 0 bytes.length

/-- The expansion of a script. -/
def scriptOps (ts : List Stmt) : List HostOp := ts.flatMap Stmt.ops

/-- A state whose host is about to run the script, after what it still has to do. -/
def withScript (ts : List Stmt) (s : State) : State := { s with host := s.host ++ scriptOps ts }

end Sys2Proof.Machine
end

