-- ==== Sys2Proof/Safety.lean ====
section
/-! DEFINITION. What claims about runs are stated in: the answer of a step, the invariant of the core's state, the
host-visible result, and what a command reads and when. -/

namespace Sys2Proof.Machine

/-- The state a step or a meaning answers with, if it answers with one. -/
def nextOf (o : Host.Outcome State Fault Refusal) : Option State :=
  match o with
  | .next s => some s
  | .fault _ => none
  | .refused _ => none

/-- The invariant of the core's state. -/
structure CoreInv (s : State) : Prop where
  /-- "BUSY and DONE are never both 1" (10_state.md R24). -/
  busy_or_done : ¬(s.status.busy = true ∧ s.status.done = true)
  /-- "ERR = 1 implies DONE = 1" (R24). -/
  err_done : s.status.err = true → s.status.done = true
  /-- "ERRCODE != 0 exactly when STATUS.ERR = 1" (R25). -/
  errcode_err : s.errcode ≠ .ok ↔ s.status.err = true
  /-- OLEN is 0 unless the last command completed without error (R29, R160, R238 (c)). -/
  olen_zero : s.olen ≠ 0 → s.status.done = true ∧ s.status.err = false
  /-- A result fits OBUF (R165, R166). -/
  olen_cap : s.olen.toNat ≤ s.cap.bytes
  /-- "OBUF[0..OLEN-1] is the result" (R31): every byte of it has been written. -/
  output_written : ∀ i, i < s.olen.toNat → (Memory.read s.obuf i).isSome = true
  /-- IBUF is in canonical form. -/
  ibuf_wf : Memory.wf s.ibuf
  /-- OBUF is in canonical form. -/
  obuf_wf : Memory.wf s.obuf
  /-- IBUF holds `IBUF[0..CAP-1]` (R30). -/
  ibuf_below : Memory.below s.ibuf s.cap.bytes
  /-- OBUF holds `OBUF[0..CAP-1]` (R31). -/
  obuf_below : Memory.below s.obuf s.cap.bytes
  /-- No context: KEY and IV are as reset left them (R21, R22, R23). -/
  no_context : s.ctx = .none → s.key = zeroBlock ∧ s.iv = zeroBlock
  /-- "an ECB context owns no IV": IV is sixteen 0x00 (R22). -/
  ecb_iv : s.ctx = .ecb → s.iv = zeroBlock

/-- `OBUF[0..OLEN-1]`, the result of the last completed command (R29); none for a byte nothing has written. -/
def outputBytes (s : State) : List (Option Byte) := (List.range s.olen.toNat).map (Memory.read s.obuf)

/-- "The host-visible projection of a completed command is exactly (STATUS, ERRCODE, OLEN, CTXR, OBUF[0..OLEN-1])"
(45_mode_commands.md R171). -/
structure HostView where
  status : Status
  errcode : ErrCode
  olen : Word
  ctx : Ctx
  output : List (Option Byte)
  deriving DecidableEq, Repr

/-- The host-visible projection of a state. -/
def hostView (s : State) : HostView :=
  { status := s.status, errcode := s.errcode, olen := s.olen, ctx := s.ctx, output := outputBytes s }

/-- The IBUF bytes a command reads when its checks pass (20_memory.md R61). -/
def inputSize (i : Instr) (s : State) : Nat :=
  match i with
  | .initEcb => 16
  | .initCbc => 32
  | .encrypt => inputLength s
  | .decrypt => inputLength s

/-- The checks a command makes before it reads any IBUF byte pass (45_mode_commands.md R163 to R166). -/
def checksPass (i : Instr) (s : State) : Bool :=
  match i with
  | .initEcb => isSixteen s.klen
  | .initCbc => isSixteen s.klen && isSixteen s.vlen
  | .encrypt =>
    s.ctx != .none && expectedLength s == paddedLength (inputLength s) && decide (expectedLength s ≤ s.cap.bytes)
  | .decrypt =>
    s.ctx != .none && inputLength s != 0 && inputLength s % 16 == 0 && decide (inputLength s ≤ s.cap.bytes)

end Sys2Proof.Machine
end

