-- ==== Sys2Proof/Certificates/Slice0/Obligations.lean ====
section
/-! DEFINITION. The statements for the provers. Each is about every state (or every operand) unless it says otherwise. -/

open Sys2Proof Sys2Proof.Machine

/-! ## Encoding -/

/-- 30_encoding.md R81: the four command words, each with mask 0xFFFFFFFF, and no other word, decode to a command. -/
def Obligations.DecodeFollowsTheOpcodeMap : Prop :=
  ∀ w : Word,
    (decode w = .ok .initEcb ↔ w = 0x00000001) ∧ (decode w = .ok .initCbc ↔ w = 0x00000002) ∧
    (decode w = .ok .encrypt ↔ w = 0x00000003) ∧ (decode w = .ok .decrypt ↔ w = 0x00000004)

/-- 30_encoding.md R80, R83 (derived): a word built from its two fields is accepted exactly when rsvd is 0 and opc is in
0x01..0x04, and then it is the encoding of the command it decodes to; every command's encoding decodes to it. -/
def Obligations.EncodeAndDecodeAgree : Prop :=
  (∀ i : Instr, decode (encode i) = .ok i) ∧
  (∀ c : CommandWord, (∃ i, decode c.toWord = .ok i) ↔ c.rsvd = 0 ∧ 1 ≤ c.opc.toNat ∧ c.opc.toNat ≤ 4) ∧
  (∀ (c : CommandWord) (i : Instr), decode c.toWord = .ok i → c.toWord = encode i)

/-- 60_exceptions.md R205 with 45_mode_commands.md R162: when the word in CMDR has bits 31:8 nonzero or bits 7:0 outside
0x01..0x04, Complete ends in IllegalCommand and changes nothing else; and the word is recorded nowhere readable. `fresh` is
the model's own count, of which nothing is said (Log 3). -/
def Obligations.IllegalWordFailsAndChangesNothingElse : Prop :=
  (∀ s : State, (s.cmdr.toNat / 256 ≠ 0 ∨ s.cmdr.toNat % 256 = 0 ∨ 4 < s.cmdr.toNat % 256) →
    ∃ n, complete s = .next { s with
      status := { busy := false, done := true, err := true }, errcode := .failed .illegalCommand, olen := 0, fresh := n }) ∧
  ∀ (s : State) (w a : Word), hostReadValue { s with cmdr := w } a = hostReadValue s a

/-! ## The step -/

/-- 45_mode_commands.md R161, R162 (derived): when BUSY = 1 and the core moves, a step runs the command that CMDR decodes
to, and with an illegal word in CMDR it is the IllegalCommand completion; when BUSY = 0 a turn of the core changes nothing;
and a placed command is the very next step's. The order of turns and the placing are the model's (Log 1, 7), and of `fresh`,
the model's own count, nothing is said (Log 3). -/
def Obligations.StepRunsTheDecodedCommand : Prop :=
  (∀ (s : State) (i : Instr), s.status.busy = true → decode s.cmdr = .ok i → s.turns = [] → step s = exec i s) ∧
  (∀ (s : State) (i : Instr) (rest : List Agent), s.status.busy = true → decode s.cmdr = .ok i →
    s.turns = .core :: rest → step s = exec i { s with turns := rest }) ∧
  (∀ (s : State) (e : DecodeError), s.status.busy = true → decode s.cmdr = .error e → s.turns = [] →
    ∃ n, step s = .next { s with
      status := { busy := false, done := true, err := true }, errcode := .failed .illegalCommand, olen := 0,
      fresh := n }) ∧
  (∀ (s : State) (e : DecodeError) (rest : List Agent), s.status.busy = true → decode s.cmdr = .error e →
    s.turns = .core :: rest → ∃ n, step s = .next { s with
      status := { busy := false, done := true, err := true }, errcode := .failed .illegalCommand, olen := 0,
      turns := rest, fresh := n }) ∧
  (∀ (s : State) (rest : List Agent), s.status.busy = false → s.turns = .core :: rest →
    step s = .next { s with turns := rest }) ∧
  (∀ (s : State) (i : Instr), step (s.withFetchWord 32 (encode i).toNat) = exec i (issue (encode i) s))

/-- 20_memory.md R62 (derived): the host's accesses take effect one at a time, in the order issued: on the host's turn the
step is its oldest pending operation; with nothing pending and nothing in flight the state stays (Log 1, 8). -/
def Obligations.StepRunsTheHostsOldestOperation : Prop :=
  (∀ (s : State) (op : HostOp) (ops : List HostOp) (rest : List Agent), s.host = op :: ops → s.turns = .host :: rest →
    step s = .next (hostStep op { s with host := ops, turns := rest })) ∧
  (∀ (s : State) (op : HostOp) (ops : List HostOp), s.host = op :: ops → s.turns = [] → s.status.busy = false →
    step s = .next (hostStep op { s with host := ops })) ∧
  (∀ s : State, s.host = [] → s.turns = [] → s.status.busy = false → step s = .next s)

/-- 45_mode_commands.md R160 (derived): a write to CMD while BUSY = 0 issues every word, clears DONE, ERR, ERRCODE and OLEN
and changes nothing else; from then on every OBUF location reads as unspecified; while BUSY = 1 it is dropped. The rule says
only "unspecified": that such a read is the low 8 bits of the opaque constant at the count `fresh`, with 0 above, is the
model's form of it (Log 3). -/
def Obligations.WriteToCmdIssues : Prop :=
  ∀ (s : State) (w : Word),
    (s.status.busy = false →
      hostWrite 0x00000000 w s =
        { s with cmdr := w, status := { busy := true, done := false, err := false }, errcode := .ok, olen := 0 } ∧
      ∀ i, i < s.cap.bytes →
        hostReadValue (hostWrite 0x00000000 w s) (BitVec.ofNat 32 (0x80000000 + i)) =
          ((Config.unspecifiedWord s.fresh).setWidth 8).setWidth 32) ∧
    (s.status.busy = true → hostWrite 0x00000000 w s = s)

/-- 45_mode_commands.md R161: for every command and state the completion is taken: BUSY is cleared, DONE is set, ERR is set
exactly when ERRCODE is not 0, and OLEN is 0 on failure and after the two INIT commands. -/
def Obligations.EveryCommandCompletes : Prop :=
  ∀ (i : Instr) (s : State), ∃ t, exec i s = .next t ∧
    t.status.busy = false ∧ t.status.done = true ∧ (t.status.err = true ↔ t.errcode ≠ .ok) ∧
    (t.status.err = true → t.olen = 0) ∧ (i = .initEcb ∨ i = .initCbc → t.olen = 0)

/-- 70_reset_and_hazards.md R236 (derived, the fairness condition): from every state with BUSY = 1 the core is no longer busy
after some number of steps. That this number is at most one more than there are turns listed is the model's choice (Log 1: a
busy core moves first when `turns` has run out); the spec gives no bound on the time of a completion (U4). -/
def Obligations.BusyAlwaysEnds : Prop :=
  ∀ s : State, s.status.busy = true →
    ∃ k t, k ≤ s.turns.length + 1 ∧ Host.Core.run core k s = .next t ∧ t.status.busy = false

/-! ## Reset -/

/-- 10_state.md R39: the reset values; of the buffers nothing is listed, so no byte is defined; and the core, idle, takes no
step. -/
def Obligations.ResetStateHasTheTabulatedValues : Prop :=
  (∀ k : Fin 16, State.reset.key[k] = 0x00 ∧ State.reset.iv[k] = 0x00) ∧
  State.reset.ctx = .none ∧ ctxrWord State.reset.ctx = 0 ∧ statusWord State.reset.status = 0 ∧
  errcodeWord State.reset.errcode = 0 ∧ State.reset.klen = 0 ∧ State.reset.vlen = 0 ∧ State.reset.ilen = 0 ∧
  State.reset.xlen = 0 ∧ State.reset.olen = 0 ∧ State.reset.cmdr = 0 ∧
  (∀ i, Memory.read State.reset.ibuf i = none ∧ Memory.read State.reset.obuf i = none) ∧
  pinBusy State.reset = false ∧ pinDone State.reset = false ∧ pinErr State.reset = false ∧
  coreTurn State.reset = .next State.reset

/-- 70_reset_and_hazards.md R230 (derived): the Reset step gives every register its reset value and leaves no byte of IBUF
and OBUF defined, from any state. -/
def Obligations.ResetStepClearsTheCore : Prop :=
  ∀ s : State,
    (resetStep s).key = zeroBlock ∧ (resetStep s).iv = zeroBlock ∧ (resetStep s).ctx = .none ∧
    (resetStep s).status = { busy := false, done := false, err := false } ∧ (resetStep s).errcode = .ok ∧
    (resetStep s).klen = 0 ∧ (resetStep s).vlen = 0 ∧ (resetStep s).ilen = 0 ∧ (resetStep s).xlen = 0 ∧
    (resetStep s).olen = 0 ∧ (resetStep s).cmdr = 0 ∧
    ∀ i, Memory.read (resetStep s).ibuf i = none ∧ Memory.read (resetStep s).obuf i = none

/-- 70_reset_and_hazards.md R231: Reset with a command in flight aborts it: BUSY = 0, DONE = 0, no error recorded, no
completion follows (a turn of the core changes nothing), no OBUF byte is defined; the core's state is the same as after Reset
from any other state; and only a reset ends a command without completing it. -/
def Obligations.ResetAbortsTheCommandInFlight : Prop :=
  (∀ s : State, s.status.busy = true →
    (resetStep s).status = { busy := false, done := false, err := false } ∧ (resetStep s).errcode = .ok ∧
    coreTurn (resetStep s) = .next (resetStep s) ∧ ∀ i, Memory.read (resetStep s).obuf i = none) ∧
  (∀ s u : State,
    (resetStep s).key = (resetStep u).key ∧ (resetStep s).iv = (resetStep u).iv ∧ (resetStep s).ctx = (resetStep u).ctx ∧
    (resetStep s).status = (resetStep u).status ∧ (resetStep s).errcode = (resetStep u).errcode ∧
    (resetStep s).klen = (resetStep u).klen ∧ (resetStep s).vlen = (resetStep u).vlen ∧
    (resetStep s).ilen = (resetStep u).ilen ∧ (resetStep s).xlen = (resetStep u).xlen ∧
    (resetStep s).olen = (resetStep u).olen ∧ (resetStep s).cmdr = (resetStep u).cmdr ∧
    (resetStep s).ibuf = (resetStep u).ibuf ∧ (resetStep s).obuf = (resetStep u).obuf) ∧
  (∀ s t : State, step s = .next t → s.status.busy = true → t.status.busy = false → t.status.done = false →
    ∃ rest, s.host = .reset :: rest)

/-! ## The host port -/

/-- 20_memory.md R55, R60, R54 (derived): a write while busy changes nothing; while BUSY = 0 a write to a location other
than CMD is read back from it where it is writable (KLEN, VLEN, ILEN, XLEN whole; an IBUF byte in its low 8 bits), leaves
the value of every other location as it was, and changes nothing anywhere else. -/
def Obligations.HostWriteReachesOneLocation : Prop :=
  ∀ (s : State) (a v : Word),
    (s.status.busy = true → hostWrite a v s = s) ∧
    (s.status.busy = false → a.toNat ≠ 0 →
      (4 ≤ a.toNat ∧ a.toNat ≤ 7 → hostReadValue (hostWrite a v s) a = v) ∧
      (0x40000000 ≤ a.toNat ∧ a.toNat < 0x40000000 + s.cap.bytes →
        hostReadValue (hostWrite a v s) a = (v.setWidth 8).setWidth 32) ∧
      (∀ b : Word, b ≠ a → hostReadValue (hostWrite a v s) b = hostReadValue s b) ∧
      (¬(4 ≤ a.toNat ∧ a.toNat ≤ 7) → ¬(0x40000000 ≤ a.toNat ∧ a.toNat < 0x40000000 + s.cap.bytes) →
        hostWrite a v s = s))

/-- 20_memory.md R53, R54, R56 (derived): which locations read exactly, and as what, while BUSY = 0 and while BUSY = 1; an
IBUF byte never written since reset, and an OBUF location at or above OLEN or while BUSY = 1, reads with its upper 24 bits 0;
and the read access, whatever BUSY is, returns that value on `h_rdata` and changes nothing else but `fresh`, the model's own
count of free values (Log 3). -/
def Obligations.HostReadReturnsTheLocation : Prop :=
  ∀ s : State,
    hostReadValue s 0x00000001 = statusWord s.status ∧ hostReadValue s 0x00000000 = 0 ∧
    hostReadValue s 0x00000004 = s.klen ∧ hostReadValue s 0x00000005 = s.vlen ∧
    hostReadValue s 0x00000006 = s.ilen ∧ hostReadValue s 0x00000007 = s.xlen ∧
    (∀ i b, i < s.cap.bytes → Memory.read s.ibuf i = some b →
      hostReadValue s (BitVec.ofNat 32 (0x40000000 + i)) = b.setWidth 32) ∧
    (s.status.busy = false →
      hostReadValue s 0x00000002 = errcodeWord s.errcode ∧ hostReadValue s 0x00000003 = ctxrWord s.ctx ∧
      hostReadValue s 0x00000008 = s.olen ∧
      ∀ i b, i < s.cap.bytes → i < s.olen.toNat → Memory.read s.obuf i = some b →
        hostReadValue s (BitVec.ofNat 32 (0x80000000 + i)) = b.setWidth 32) ∧
    (∀ i, i < s.cap.bytes → Memory.read s.ibuf i = none →
      (hostReadValue s (BitVec.ofNat 32 (0x40000000 + i))).toNat < 0x100) ∧
    (∀ i, i < s.cap.bytes → s.status.busy = true ∨ s.olen.toNat ≤ i →
      (hostReadValue s (BitVec.ofNat 32 (0x80000000 + i))).toNat < 0x100) ∧
    ∀ a : Word, ∃ n, hostRead a s = { s with hRdata := hostReadValue s a, fresh := n }

/-- 20_memory.md R57: reserved locations 0x9 to 0xF and every unmapped address read 0, and a write to one is ignored and
changes nothing; nor does the read change STATUS or raise an error. -/
def Obligations.ReservedAndUnmappedAreInert : Prop :=
  ∀ (s : State) (a v : Word),
    8 < a.toNat → ¬(0x40000000 ≤ a.toNat ∧ a.toNat < 0x40000000 + s.cap.bytes) →
    ¬(0x80000000 ≤ a.toNat ∧ a.toNat < 0x80000000 + s.cap.bytes) →
    hostReadValue s a = 0 ∧ hostWrite a v s = s ∧
    (hostRead a s).status = s.status ∧ (hostRead a s).errcode = s.errcode

/-- 60_exceptions.md R211 with 20_memory.md R56 (derived): what any read returns does not depend on KEY, on IV, on CMDR or
on the OBUF bytes at or above OLEN; while BUSY = 1 it depends on no OBUF byte, nor on OLEN, ERRCODE or CTX. The part on KEY,
IV and CMDR is the spec's. The part on OBUF and on what reads unspecified while BUSY = 1 is the model's choice: the spec
allows any value there, the residue included (U1, U2, R235, R239), and the model returns an opaque constant of the count
`fresh` (Log 3) and none of the bytes its field for OBUF keeps (Log 5). -/
def Obligations.ReadsRevealNoKeyAndNoResidue : Prop :=
  (∀ (s : State) (key iv : Block) (cmdr : Word) (m : Memory) (a : Word),
    (∀ i, i < s.olen.toNat → Memory.read m i = Memory.read s.obuf i) →
    hostReadValue { s with key := key, iv := iv, cmdr := cmdr, obuf := m } a = hostReadValue s a) ∧
  (∀ (s : State) (m : Memory) (n : Word) (e : ErrCode) (c : Ctx) (a : Word), s.status.busy = true →
    hostReadValue { s with obuf := m, olen := n, errcode := e, ctx := c } a = hostReadValue s a)

/-- 60_exceptions.md R210: the pins equal STATUS bits 0, 1 and 2 at all times and are 0 after reset; they are levels: `done`
and `err` rise only when a command completes, and fall only at the next issue or at a reset. -/
def Obligations.PinsMirrorStatus : Prop :=
  (∀ s : State, (statusWord s.status).getLsbD 0 = pinBusy s ∧ (statusWord s.status).getLsbD 1 = pinDone s ∧
    (statusWord s.status).getLsbD 2 = pinErr s) ∧
  (pinBusy State.reset = false ∧ pinDone State.reset = false ∧ pinErr State.reset = false) ∧
  (∀ s t : State, step s = .next t →
    (pinDone s = false ∧ pinDone t = true) ∨ (pinErr s = false ∧ pinErr t = true) →
    pinBusy s = true ∧ pinBusy t = false) ∧
  (∀ s t : State, CoreInv s → step s = .next t →
    (pinDone s = true ∧ pinDone t = false) ∨ (pinErr s = true ∧ pinErr t = false) →
    ∃ op rest, s.host = op :: rest ∧ (op = .reset ∨ ∃ w, op = .write 0x00000000 w))

/-- 45_mode_commands.md R171, 20_memory.md R64 (derived): whatever reads, writes and waits the host makes while a command
is in flight, only the port's read data, the count of free values and the host's own pending list change. -/
def Obligations.HostCannotDisturbACommandInFlight : Prop :=
  ∀ (ops : List HostOp) (s : State), s.status.busy = true → HostOp.reset ∉ ops →
    ops.foldl (fun u op => hostStep op u) s =
      { s with
        hRdata := (ops.foldl (fun u op => hostStep op u) s).hRdata
        fresh := (ops.foldl (fun u op => hostStep op u) s).fresh
        host := (ops.foldl (fun u op => hostStep op u) s).host }

/-- 30_encoding.md R87, `wait` (derived): it reads STATUS, and is over exactly when the value read has bit 0 = 0. -/
def Obligations.WaitPollsStatus : Prop :=
  ∀ s : State,
    (s.status.busy = false → hostStep .wait s = hostStep (.read 0x00000001) s) ∧
    (s.status.busy = true →
      hostStep .wait s = { hostStep (.read 0x00000001) s with host := .wait :: s.host }) ∧
    (hostStep .wait s).hRdata = statusWord s.status

/-- 30_encoding.md R87, `ld` (derived): run while BUSY = 0, the writes that `ld IBUF[o], bytes` expands to put byte k at
`IBUF[o + k]` and change no other byte and no other field. -/
def Obligations.LoadPlacesTheBytes : Prop :=
  ∀ (bytes : List Byte) (o : Nat) (s : State), s.status.busy = false → o + bytes.length ≤ s.cap.bytes →
    ∃ m, (Stmt.ops (.ld o bytes)).foldl (fun u op => hostStep op u) s = { s with ibuf := m } ∧
      (∀ k, k < bytes.length → Memory.read m (o + k) = bytes[k]?) ∧
      (∀ i, i < o ∨ o + bytes.length ≤ i → Memory.read m i = Memory.read s.ibuf i)

/-! ## INIT_ECB and INIT_CBC -/

/-- 45_mode_commands.md R163: INIT_ECB with KLEN = 16 completes with KEY = IBUF[0..15], IV = sixteen 0x00, CTX = ECB,
result length 0; with any other KLEN it fails with ContractViolation and KEY, IV, CTX stay. Every other field stays
(of `fresh`, the model's own count, nothing is said, Log 3; a never-written IBUF byte reads as a free value, Log 4). Its
word is 0x00000001, and later writes to IBUF do not change KEY. -/
def Obligations.InitEcbConstructsTheContext : Prop :=
  decode 0x00000001 = .ok .initEcb ∧
  (∀ (s : State) (i : Nat) (v : Word), (hostWrite (BitVec.ofNat 32 (0x40000000 + i)) v s).key = s.key) ∧
  ∀ s : State,
    (s.klen = 16 → ∃ n, exec .initEcb s = .next { s with
      key := Vector.ofFn fun k : Fin 16 => ibufByte s k, iv := Vector.ofFn fun _ => 0x00, ctx := .ecb,
      status := { busy := false, done := true, err := false }, errcode := .ok, olen := 0, fresh := n }) ∧
    (s.klen ≠ 16 → ∃ n, exec .initEcb s = .next { s with
      status := { busy := false, done := true, err := true }, errcode := .failed .contractViolation, olen := 0,
      fresh := n })

/-- 45_mode_commands.md R164: INIT_CBC with KLEN = 16 and VLEN = 16 completes with KEY = IBUF[0..15], IV = IBUF[16..31],
CTX = CBC, result length 0; otherwise it fails with ContractViolation and KEY, IV, CTX stay. Its word is 0x00000002, and no
ENCRYPT or DECRYPT writes IV. -/
def Obligations.InitCbcConstructsTheContext : Prop :=
  decode 0x00000002 = .ok .initCbc ∧
  (∀ (i : Instr) (s t : State), i = .encrypt ∨ i = .decrypt → exec i s = .next t → t.iv = s.iv) ∧
  ∀ s : State,
    (s.klen = 16 ∧ s.vlen = 16 → ∃ n, exec .initCbc s = .next { s with
      key := Vector.ofFn fun k : Fin 16 => ibufByte s k, iv := Vector.ofFn fun k : Fin 16 => ibufByte s (16 + k),
      ctx := .cbc,
      status := { busy := false, done := true, err := false }, errcode := .ok, olen := 0, fresh := n }) ∧
    (s.klen ≠ 16 ∨ s.vlen ≠ 16 → ∃ n, exec .initCbc s = .next { s with
      status := { busy := false, done := true, err := true }, errcode := .failed .contractViolation, olen := 0,
      fresh := n })

/-- 20_memory.md R61 and 30_encoding.md R82 (derived), the frame of INIT_ECB and INIT_CBC: of the registers only KEY, IV,
CTX, STATUS, ERRCODE and OLEN may change; every byte of IBUF and of the model's field for OBUF reads as before, though the
port returns none of the latter (OLEN is 0; Log 5); the port's read data stays, which is the model's choice (Log 6), as do
the capacity and the lists of Log 1 and 2. -/
def Obligations.InitFrame : Prop :=
  ∀ (i : Instr) (s t : State), i = .initEcb ∨ i = .initCbc → exec i s = .next t →
    t.klen = s.klen ∧ t.vlen = s.vlen ∧ t.ilen = s.ilen ∧ t.xlen = s.xlen ∧ t.cmdr = s.cmdr ∧
    (∀ a, Memory.read t.ibuf a = Memory.read s.ibuf a) ∧ (∀ a, Memory.read t.obuf a = Memory.read s.obuf a) ∧
    t.hRdata = s.hRdata ∧ t.cap = s.cap ∧ t.host = s.host ∧ t.turns = s.turns

/-! ## ENCRYPT and DECRYPT -/

/-- 60_exceptions.md R207 for ENCRYPT, with R203, R200, R204 (derived): NoContext, then LengthMismatch, then
CapacityExceeded, the first failing check being reported; nothing else changes, no OBUF byte included. Of `fresh`, the
model's own count, nothing is said (Log 3). -/
def Obligations.EncryptReportsTheFirstFailingCheck : Prop :=
  ∀ s : State,
    (s.ctx = .none → ∃ n, exec .encrypt s = .next { s with
      status := { busy := false, done := true, err := true }, errcode := .failed .noContext, olen := 0,
      fresh := n }) ∧
    (s.ctx ≠ .none → s.xlen.toNat ≠ paddedLength s.ilen.toNat → ∃ n, exec .encrypt s = .next { s with
      status := { busy := false, done := true, err := true }, errcode := .failed .lengthMismatch, olen := 0,
      fresh := n }) ∧
    (s.ctx ≠ .none → s.xlen.toNat = paddedLength s.ilen.toNat → s.cap.bytes < s.xlen.toNat →
      ∃ n, exec .encrypt s = .next { s with
        status := { busy := false, done := true, err := true }, errcode := .failed .capacityExceeded, olen := 0,
        fresh := n })

/-- 60_exceptions.md R207 for DECRYPT, with R203, R200, R204 (derived): the same order, and nothing else changes. Of `fresh`,
the model's own count, nothing is said (Log 3). -/
def Obligations.DecryptReportsTheFirstFailingCheck : Prop :=
  ∀ s : State,
    (s.ctx = .none → ∃ n, exec .decrypt s = .next { s with
      status := { busy := false, done := true, err := true }, errcode := .failed .noContext, olen := 0,
      fresh := n }) ∧
    (s.ctx ≠ .none → s.ilen.toNat = 0 ∨ s.ilen.toNat % 16 ≠ 0 → ∃ n, exec .decrypt s = .next { s with
      status := { busy := false, done := true, err := true }, errcode := .failed .lengthMismatch, olen := 0,
      fresh := n }) ∧
    (s.ctx ≠ .none → s.ilen.toNat ≠ 0 → s.ilen.toNat % 16 = 0 → s.cap.bytes < s.ilen.toNat →
      ∃ n, exec .decrypt s = .next { s with
        status := { busy := false, done := true, err := true }, errcode := .failed .capacityExceeded, olen := 0,
        fresh := n })

/-- 45_mode_commands.md R165 with R154 (derived): ILEN >= 0xFFFFFFF0 always fails with LengthMismatch, because no 32-bit
XLEN equals 2^32. -/
def Obligations.LengthsNearTheTopNeverMatch : Prop :=
  ∀ s : State, s.ctx ≠ .none → 0xFFFFFFF0 ≤ s.ilen.toNat →
    ∃ t, exec .encrypt s = .next t ∧ t.errcode = .failed .lengthMismatch

/-- 45_mode_commands.md R165 and R167 (derived): under ECB, when the checks pass ENCRYPT completes without error with
OLEN = XLEN, and block i of OBUF is EncryptBlock of block i of the padded plaintext under ExpandKey(KEY). -/
def Obligations.EcbEncryptsEveryBlock : Prop :=
  ∀ s : State, s.ctx = .ecb → s.xlen.toNat = paddedLength s.ilen.toNat → s.xlen.toNat ≤ s.cap.bytes →
    ∃ t, exec .encrypt s = .next t ∧ t.status = { busy := false, done := true, err := false } ∧ t.errcode = .ok ∧
      t.olen = s.xlen ∧
      ∀ i, i < s.xlen.toNat / 16 → ∀ k : Fin 16, Memory.read t.obuf (16 * i + k) =
        some (encryptBlock (Vector.ofFn fun j : Fin 16 =>
          if 16 * i + j < s.ilen.toNat then ibufByte s (16 * i + j) else BitVec.ofNat 8 (padLength s.ilen.toNat))
          (expandKey s.key))[k]

/-- 45_mode_commands.md R165 and R168 (derived): under CBC, when the checks pass ENCRYPT completes without error with
OLEN = XLEN, and OBUF holds blocks C_0, C_1, ... with C_0 = EncryptBlock(P_0 XOR IV) and C_(i+1) = EncryptBlock(P_(i+1) XOR
C_i), P_i block i of the padded plaintext. -/
def Obligations.CbcEncryptChainsTheCiphertext : Prop :=
  ∀ (s : State) (p : Nat → Block), s.ctx = .cbc → s.xlen.toNat = paddedLength s.ilen.toNat →
    s.xlen.toNat ≤ s.cap.bytes →
    (∀ i, p i = Vector.ofFn fun j : Fin 16 =>
      if 16 * i + j < s.ilen.toNat then ibufByte s (16 * i + j) else BitVec.ofNat 8 (padLength s.ilen.toNat)) →
    ∃ t, exec .encrypt s = .next t ∧ t.status = { busy := false, done := true, err := false } ∧ t.errcode = .ok ∧
      t.olen = s.xlen ∧
      ∃ c : Nat → Block,
        c 0 = encryptBlock (xorBlock (p 0) s.iv) (expandKey s.key) ∧
        (∀ i, i + 1 < s.xlen.toNat / 16 → c (i + 1) = encryptBlock (xorBlock (p (i + 1)) (c i)) (expandKey s.key)) ∧
        ∀ i, i < s.xlen.toNat / 16 → ∀ k : Fin 16, Memory.read t.obuf (16 * i + k) = some (c i)[k]

/-- 45_mode_commands.md R166 and R169 (derived): under ECB, when the length checks pass DECRYPT answers a next state whose
OBUF block i is p_i = DecryptBlock(c_i), c_i block i of IBUF, under ExpandKey(KEY); and when the last block's last n bytes
are all n, 1 <= n <= 16, it completes without error with OLEN = ILEN - n. -/
def Obligations.EcbDecryptsEveryBlock : Prop :=
  ∀ (s : State) (c p : Nat → Block), s.ctx = .ecb → s.ilen.toNat ≠ 0 → s.ilen.toNat % 16 = 0 →
    s.ilen.toNat ≤ s.cap.bytes → (∀ i, c i = Vector.ofFn fun j : Fin 16 => ibufByte s (16 * i + j)) →
    (∀ i, p i = decryptBlock (c i) (expandKey s.key)) →
    ∃ t, exec .decrypt s = .next t ∧
      (∀ i, i < s.ilen.toNat / 16 → ∀ k : Fin 16, Memory.read t.obuf (16 * i + k) = some (p i)[k]) ∧
      ∀ n : Byte, 1 ≤ n.toNat → n.toNat ≤ 16 →
        (∀ k : Fin 16, 16 - n.toNat ≤ k.val → (p (s.ilen.toNat / 16 - 1))[k] = n) →
        t.status = { busy := false, done := true, err := false } ∧ t.errcode = .ok ∧
          t.olen.toNat = s.ilen.toNat - n.toNat

/-- 45_mode_commands.md R166 and R170 (derived): under CBC, when the length checks pass DECRYPT answers a next state whose
OBUF block i is p_i, with p_0 = DecryptBlock(c_0) XOR IV and p_(i+1) = DecryptBlock(c_(i+1)) XOR c_i, c_i block i of IBUF;
and when the last block's last n bytes are all n, 1 <= n <= 16, it completes without error with OLEN = ILEN - n. -/
def Obligations.CbcDecryptChainsTheCiphertext : Prop :=
  ∀ (s : State) (c p : Nat → Block), s.ctx = .cbc → s.ilen.toNat ≠ 0 → s.ilen.toNat % 16 = 0 →
    s.ilen.toNat ≤ s.cap.bytes → (∀ i, c i = Vector.ofFn fun j : Fin 16 => ibufByte s (16 * i + j)) →
    p 0 = xorBlock (decryptBlock (c 0) (expandKey s.key)) s.iv →
    (∀ i, p (i + 1) = xorBlock (decryptBlock (c (i + 1)) (expandKey s.key)) (c i)) →
    ∃ t, exec .decrypt s = .next t ∧
      (∀ i, i < s.ilen.toNat / 16 → ∀ k : Fin 16, Memory.read t.obuf (16 * i + k) = some (p i)[k]) ∧
      ∀ n : Byte, 1 ≤ n.toNat → n.toNat ≤ 16 →
        (∀ k : Fin 16, 16 - n.toNat ≤ k.val → (p (s.ilen.toNat / 16 - 1))[k] = n) →
        t.status = { busy := false, done := true, err := false } ∧ t.errcode = .ok ∧
          t.olen.toNat = s.ilen.toNat - n.toNat

/-- 45_mode_commands.md R166 with 44_padding.md R153 and 60_exceptions.md R201 (derived): when the length checks pass, let p
be the last byte DECRYPT wrote to OBUF. If 1 <= p <= 16 and the last p bytes are all p, the command completes without error
with OLEN = ILEN - p; otherwise it ends in InvalidPadding with OLEN = 0. -/
def Obligations.DecryptChecksTheTrailer : Prop :=
  ∀ s : State, s.ctx ≠ .none → s.ilen.toNat ≠ 0 → s.ilen.toNat % 16 = 0 → s.ilen.toNat ≤ s.cap.bytes →
    ∃ (t : State) (p : Byte), exec .decrypt s = .next t ∧ Memory.read t.obuf (s.ilen.toNat - 1) = some p ∧
      (1 ≤ p.toNat ∧ p.toNat ≤ 16 ∧
          (∀ j, 1 ≤ j → j ≤ p.toNat → Memory.read t.obuf (s.ilen.toNat - j) = some p) →
        t.status = { busy := false, done := true, err := false } ∧ t.errcode = .ok ∧
          t.olen.toNat = s.ilen.toNat - p.toNat) ∧
      (¬(1 ≤ p.toNat ∧ p.toNat ≤ 16 ∧
          ∀ j, 1 ≤ j → j ≤ p.toNat → Memory.read t.obuf (s.ilen.toNat - j) = some p) →
        t.status = { busy := false, done := true, err := true } ∧ t.errcode = .failed .invalidPadding ∧ t.olen = 0)

/-- 20_memory.md R61 and 30_encoding.md R82 (derived), the frame of ENCRYPT and DECRYPT: of the registers only STATUS,
ERRCODE and OLEN may change; every byte of IBUF reads as before; every byte of OBUF outside the stored range (index 0 up to
XLEN for ENCRYPT, up to ILEN for DECRYPT) reads as before; and a command that failed with another error than InvalidPadding
stored nothing. What the field for OBUF holds at or above OLEN is the model's (Log 5), and that the port's read data stays is
the model's choice (Log 6), as are the capacity and the lists of Log 1 and 2. -/
def Obligations.MessageFrame : Prop :=
  ∀ (i : Instr) (s t : State), i = .encrypt ∨ i = .decrypt → exec i s = .next t →
    t.key = s.key ∧ t.iv = s.iv ∧ t.ctx = s.ctx ∧ t.klen = s.klen ∧ t.vlen = s.vlen ∧ t.ilen = s.ilen ∧
    t.xlen = s.xlen ∧ t.cmdr = s.cmdr ∧ (∀ a, Memory.read t.ibuf a = Memory.read s.ibuf a) ∧
    (i = .encrypt → ∀ a, expectedLength s ≤ a → Memory.read t.obuf a = Memory.read s.obuf a) ∧
    (i = .decrypt → ∀ a, inputLength s ≤ a → Memory.read t.obuf a = Memory.read s.obuf a) ∧
    (t.status.err = true → t.errcode ≠ .failed .invalidPadding →
      ∀ a, Memory.read t.obuf a = Memory.read s.obuf a) ∧
    t.hRdata = s.hRdata ∧ t.cap = s.cap ∧ t.host = s.host ∧ t.turns = s.turns

/-- 44_padding.md R155: the lengths after a successful ENCRYPT and after a successful DECRYPT. -/
def Obligations.ResultLengths : Prop :=
  (∀ s t : State, exec .encrypt s = .next t → t.status.err = false →
    t.olen = s.xlen ∧ t.olen.toNat = paddedLength s.ilen.toNat ∧ 16 ≤ t.olen.toNat ∧ t.olen.toNat % 16 = 0 ∧
    s.ilen.toNat < t.olen.toNat ∧ t.olen.toNat ≤ s.ilen.toNat + 16) ∧
  (∀ s t : State, exec .decrypt s = .next t → t.status.err = false →
    ∃ p, 1 ≤ p ∧ p ≤ 16 ∧ p ≤ s.ilen.toNat ∧ t.olen.toNat = s.ilen.toNat - p)

/-- 60_exceptions.md R206: a completion that fails, the illegal word's included, records ERRCODE <- code, ERR <- 1, DONE <- 1,
BUSY <- 0, OLEN <- 0; nothing is saved; KEY, IV, CTX, the length registers and IBUF are as at issue; and OBUF is written only
when the error is InvalidPadding. -/
def Obligations.ErrorsArePrecise : Prop :=
  ∀ (s t : State) (k : ErrorKind), complete s = .next t → t.errcode = .failed k →
    t.status = { busy := false, done := true, err := true } ∧ t.olen = 0 ∧
    t.key = s.key ∧ t.iv = s.iv ∧ t.ctx = s.ctx ∧ t.klen = s.klen ∧ t.vlen = s.vlen ∧ t.ilen = s.ilen ∧
    t.xlen = s.xlen ∧ t.ibuf = s.ibuf ∧ t.cmdr = s.cmdr ∧
    (k ≠ .invalidPadding → t.obuf = s.obuf) ∧
    pinBusy t = false ∧ pinDone t = true ∧ pinErr t = true

/-- 60_exceptions.md R208 (derived): "issuing the same command again with the same state fails in the same way": the host
sees the same completion. It holds over never-written input too, whose unknown bytes stay the same until the next reset (U3,
Log 4). That the same bytes stand in the model's field for OBUF, which the spec calls unspecified after a failure, is the
model's choice (Log 5). -/
def Obligations.FailedCommandFailsAgain : Prop :=
  ∀ (i : Instr) (s t : State) (k : ErrorKind), exec i s = .next t → t.errcode = .failed k →
    ∃ u, exec i (issue (encode i) t) = .next u ∧ u.errcode = .failed k ∧ hostView u = hostView t ∧
      ∀ a, Memory.read u.obuf a = Memory.read t.obuf a

/-- 45_mode_commands.md R172, round-trip: if ENCRYPT succeeds, then DECRYPT under the same context with the ciphertext in
IBUF and ILEN its length succeeds with OLEN the plaintext's length and the plaintext in OBUF. -/
def Obligations.DecryptUndoesEncrypt : Prop :=
  ∀ s t u : State, exec .encrypt s = .next t → t.status.err = false →
    u.ctx = s.ctx → u.key = s.key → u.iv = s.iv → u.cap = s.cap → u.ilen = t.olen →
    (∀ i, i < t.olen.toNat → Memory.read u.ibuf i = Memory.read t.obuf i) →
    ∃ v, exec .decrypt u = .next v ∧ v.status = { busy := false, done := true, err := false } ∧ v.errcode = .ok ∧
      v.olen = s.ilen ∧ ∀ i, i < s.ilen.toNat → Memory.read v.obuf i = some (ibufByte s i)

/-- 45_mode_commands.md R172, determinism, with 20_memory.md R61 (derived): what a completed command shows the host, and
the context it leaves, depend only on CTX, KEY, IV, the length registers, CAP and, when the checks pass, the IBUF bytes the
command reads; in particular not on OBUF, CMDR, the rest of IBUF, earlier errors or the count of free values. A command that
fails its checks depends on no IBUF byte. -/
def Obligations.CommandsDependOnTheirOperandsOnly : Prop :=
  ∀ (i : Instr) (s u t v : State), s.ctx = u.ctx → s.key = u.key → s.iv = u.iv → s.klen = u.klen → s.vlen = u.vlen →
    s.ilen = u.ilen → s.xlen = u.xlen → s.cap = u.cap →
    (checksPass i s = true → ∀ j, j < inputSize i s → ibufByte s j = ibufByte u j) →
    exec i s = .next t → exec i u = .next v →
    hostView t = hostView v ∧ t.key = v.key ∧ t.iv = v.iv

/-- 45_mode_commands.md R167 (derived): under ECB block i of the output depends only on KEY and block i of the padded
plaintext: equal blocks, in one message or in two under the same key, give equal ciphertext blocks. -/
def Obligations.EcbEqualBlocksGiveEqualBlocks : Prop :=
  ∀ (s u t v : State) (i j : Nat), s.ctx = .ecb → u.ctx = .ecb → s.key = u.key →
    exec .encrypt s = .next t → exec .encrypt u = .next v → t.status.err = false → v.status.err = false →
    i < s.xlen.toNat / 16 → j < u.xlen.toNat / 16 →
    (∀ k, k < 16 → (paddedMessage s)[16 * i + k]? = (paddedMessage u)[16 * j + k]?) →
    ∀ k, k < 16 → Memory.read t.obuf (16 * i + k) = Memory.read v.obuf (16 * j + k)

/-- 45_mode_commands.md R170 (derived): under CBC a change d XORed into ciphertext block j leaves every decrypted block
other than j and j + 1 as it was, XORs exactly d into decrypted block j + 1, and, when d is not zero, changes decrypted block
j. -/
def Obligations.CbcChangePropagatesToTwoBlocks : Prop :=
  ∀ (s u t v : State) (j : Nat) (d : Block), s.ctx = .cbc → u.ctx = .cbc → u.key = s.key → u.iv = s.iv →
    u.ilen = s.ilen → u.cap = s.cap →
    s.ilen.toNat ≠ 0 → s.ilen.toNat % 16 = 0 → s.ilen.toNat ≤ s.cap.bytes → j < s.ilen.toNat / 16 →
    (∀ k : Fin 16, ibufByte u (16 * j + k) = ibufByte s (16 * j + k) ^^^ d[k]) →
    (∀ n, n / 16 ≠ j → n < s.ilen.toNat → ibufByte u n = ibufByte s n) →
    exec .decrypt s = .next t → exec .decrypt u = .next v →
    (∀ n, n < s.ilen.toNat → n / 16 ≠ j → n / 16 ≠ j + 1 → Memory.read v.obuf n = Memory.read t.obuf n) ∧
    (j + 1 < s.ilen.toNat / 16 → ∀ k : Fin 16, ∃ b, Memory.read t.obuf (16 * (j + 1) + k) = some b ∧
      Memory.read v.obuf (16 * (j + 1) + k) = some (b ^^^ d[k])) ∧
    (d ≠ zeroBlock → ∃ k : Fin 16, Memory.read v.obuf (16 * j + k) ≠ Memory.read t.obuf (16 * j + k))

/-! ## Whole-machine rules -/

/-- The invariant of Safety.lean holds after reset (10_state.md R24, R25, R29, R31, R39). -/
def Obligations.InvAtReset : Prop := CoreInv State.reset

/-- Every step keeps the invariant, from every state that meets it. -/
def Obligations.StepKeepsInv : Prop := ∀ s t : State, CoreInv s → step s = .next t → CoreInv t

/-- No step stops the machine: there is no fatal state (60_exceptions.md R214) and no command is refused; and the capacity
never changes (10_state.md R37). -/
def Obligations.EveryStepAnswersANextState : Prop := ∀ s : State, ∃ t, step s = .next t ∧ t.cap = s.cap

/-- 45_mode_commands.md R175 with 10_state.md R21 to R23 (derived): KEY, IV or CTX change in a step only when the core
completes a successful INIT_ECB or INIT_CBC, or at a reset. -/
def Obligations.OnlyInitAndResetWriteTheContext : Prop :=
  ∀ s t : State, step s = .next t → t.key ≠ s.key ∨ t.iv ≠ s.iv ∨ t.ctx ≠ s.ctx →
    (s.status.busy = true ∧ (decode s.cmdr = .ok .initEcb ∨ decode s.cmdr = .ok .initCbc) ∧
      t.status = { busy := false, done := true, err := false }) ∨
    (∃ rest, s.host = .reset :: rest ∧ t.host = rest ∧ t.ctx = .none)

/-- 10_state.md R27, R28, R30 (derived): IBUF and the four length registers the host writes change in a step only by a host
write while BUSY = 0, or at a reset; no command writes them. -/
def Obligations.OnlyTheHostWritesOperands : Prop :=
  ∀ s t : State, step s = .next t →
    t.klen ≠ s.klen ∨ t.vlen ≠ s.vlen ∨ t.ilen ≠ s.ilen ∨ t.xlen ≠ s.xlen ∨ t.ibuf ≠ s.ibuf →
    (∃ a v rest, s.status.busy = false ∧ s.host = .write a v :: rest ∧ t.host = rest) ∨
    (∃ rest, s.host = .reset :: rest ∧ t.host = rest)

/-- 10_state.md R24 (derived): BUSY becomes 1 only by a host write to CMD, and returns to 0 only by a completion, which sets
DONE, or a reset, which clears it. -/
def Obligations.BusyChangesOnlyAtIssueCompletionReset : Prop :=
  ∀ s t : State, step s = .next t →
    (s.status.busy = false → t.status.busy = true → ∃ w rest, s.host = .write 0x00000000 w :: rest ∧ t.cmdr = w) ∧
    (s.status.busy = true → t.status.busy = false →
      t.status.done = true ∨ ∃ rest, s.host = .reset :: rest ∧ t.status.done = false)

/-! ## The units -/

/-- 40_field_arithmetic.md R100: doubling without wrap below 0x80; above, bit 8 dropped and 0x1B XORed in. -/
def Obligations.XtimeDoubles : Prop :=
  (∀ a : Byte, a.toNat < 0x80 → (xtime a).toNat = 2 * a.toNat) ∧
  (∀ a : Byte, 0x80 ≤ a.toNat → (xtime a).toNat = (2 * a.toNat - 0x100) ^^^ 0x1B) ∧
  xtime 0x00 = 0x00 ∧ xtime 0x80 = 0x1B ∧ xtime 0xFF = 0xE5 ∧ xtime 0x7F = 0xFE ∧ xtime 0x57 = 0xAE ∧ xtime 0xAE = 0x47

/-- 40_field_arithmetic.md R101: the product is the XOR of the doublings of `a` at the set bits of `b`; with the corner
cases. -/
def Obligations.MultiplyAccumulatesDoublings : Prop :=
  (∀ a b : Byte, multiply a b =
    (List.range 8).foldl (fun p k => if b.getLsbD k then p ^^^ (xtime^[k]) a else p) 0) ∧
  (∀ b : Byte, multiply 0x00 b = 0x00 ∧ multiply b 0x00 = 0x00 ∧ multiply 0x01 b = b ∧ multiply b 0x01 = b ∧
    multiply 0x02 b = xtime b ∧ multiply 0x03 b = xtime b ^^^ b) ∧
  multiply 0x57 0x13 = 0xFE ∧ multiply 0x02 0x80 = 0x1B ∧ multiply 0xFF 0xFF = 0x13

/-- 40_field_arithmetic.md R102 (derived): the product does not depend on the order of its operands. -/
def Obligations.MultiplyCommutes : Prop := ∀ a b : Byte, multiply a b = multiply b a

/-- 41_substitution_tables.md R110 to R112 (derived; the values are the spec's general knowledge, Log 13): the tables are
inverse permutations, SBOX has no fixed point, and each round constant is the double of the one before. -/
def Obligations.TablesAreConsistent : Prop :=
  (∀ x : Byte, invSubByte (subByte x) = x ∧ subByte (invSubByte x) = x ∧ subByte x ≠ x) ∧
  rcon 0 = 0x01 ∧ ∀ j : Fin 9, rcon j.succ = xtime (rcon j.castSucc)

/-- 42_round_transform.md R120 to R123, R126 (derived): each byte of the result, in the matrix view `S[r + 4c]`. -/
def Obligations.RoundOperationsByteByByte : Prop :=
  ∀ (s k : Block) (r c : Nat) (hr : r < 4) (hc : c < 4),
    (subBytes s)[r + 4 * c] = subByte s[r + 4 * c] ∧ (invSubBytes s)[r + 4 * c] = invSubByte s[r + 4 * c] ∧
    (shiftRows s)[r + 4 * c] = s[r + 4 * ((c + r) % 4)] ∧
    (invShiftRows s)[r + 4 * c] = s[r + 4 * ((c + 4 - r) % 4)] ∧
    (addRoundKey s k)[r + 4 * c] = s[r + 4 * c] ^^^ k[r + 4 * c]

/-- 42_round_transform.md R124 and R125 (derived): the four output bytes of column c. -/
def Obligations.MixColumnsByColumn : Prop :=
  ∀ (s : Block) (c : Nat) (_ : c < 4),
    let c0 := s[4 * c]
    let c1 := s[4 * c + 1]
    let c2 := s[4 * c + 2]
    let c3 := s[4 * c + 3]
    ((mixColumns s)[4 * c] = multiply 0x02 c0 ^^^ multiply 0x03 c1 ^^^ multiply 0x01 c2 ^^^ multiply 0x01 c3 ∧
     (mixColumns s)[4 * c + 1] = multiply 0x01 c0 ^^^ multiply 0x02 c1 ^^^ multiply 0x03 c2 ^^^ multiply 0x01 c3 ∧
     (mixColumns s)[4 * c + 2] = multiply 0x01 c0 ^^^ multiply 0x01 c1 ^^^ multiply 0x02 c2 ^^^ multiply 0x03 c3 ∧
     (mixColumns s)[4 * c + 3] = multiply 0x03 c0 ^^^ multiply 0x01 c1 ^^^ multiply 0x01 c2 ^^^ multiply 0x02 c3) ∧
    ((invMixColumns s)[4 * c] = multiply 0x0E c0 ^^^ multiply 0x0B c1 ^^^ multiply 0x0D c2 ^^^ multiply 0x09 c3 ∧
     (invMixColumns s)[4 * c + 1] = multiply 0x09 c0 ^^^ multiply 0x0E c1 ^^^ multiply 0x0B c2 ^^^ multiply 0x0D c3 ∧
     (invMixColumns s)[4 * c + 2] = multiply 0x0D c0 ^^^ multiply 0x09 c1 ^^^ multiply 0x0E c2 ^^^ multiply 0x0B c3 ∧
     (invMixColumns s)[4 * c + 3] = multiply 0x0B c0 ^^^ multiply 0x0D c1 ^^^ multiply 0x09 c2 ^^^ multiply 0x0E c3)

/-- 42_round_transform.md R129: each inverse pair undoes the other, in both orders, and DecryptBlock undoes EncryptBlock
for any eleven round keys. -/
def Obligations.InversePairs : Prop :=
  (∀ s : Block, invSubBytes (subBytes s) = s ∧ subBytes (invSubBytes s) = s) ∧
  (∀ s : Block, invShiftRows (shiftRows s) = s ∧ shiftRows (invShiftRows s) = s) ∧
  (∀ s : Block, invMixColumns (mixColumns s) = s ∧ mixColumns (invMixColumns s) = s) ∧
  (∀ s k : Block, addRoundKey (addRoundKey s k) k = s) ∧
  (∀ (s : Block) (rk : KeySchedule), decryptBlock (encryptBlock s rk) rk = s)

/-- 42_round_transform.md R128 (derived): for a fixed schedule EncryptBlock is a bijection, with DecryptBlock its
inverse: also EncryptBlock(DecryptBlock(S, RK), RK) = S. -/
def Obligations.EncryptBlockIsABijection : Prop :=
  ∀ rk : KeySchedule, Function.Bijective (fun s : Block => encryptBlock s rk) ∧
    ∀ s : Block, encryptBlock (decryptBlock s rk) rk = s

/-- 43_key_schedule.md R140 (derived): round key 0 is the key; word 0 of round key r is word 0 of round key r - 1 XOR T, T
being the last word rotated left by one byte, substituted, with RCON[r-1] in its first byte; each later word is the same word of
round key r - 1 XOR the preceding word of round key r. The XOR into word 0 and the round constants are the spec's general
knowledge (Log 13). -/
def Obligations.ExpandKeyRecurrence : Prop :=
  rcon 0 = 0x01 ∧ rcon 9 = 0x36 ∧ ∀ key : Block, (expandKey key)[0] = key ∧
    ∀ (r : Nat) (_ : r < 10),
      (expandKey key)[r + 1][0] = (expandKey key)[r][0] ^^^ (subByte (expandKey key)[r][13] ^^^ rcon ⟨r, by omega⟩) ∧
      (expandKey key)[r + 1][1] = (expandKey key)[r][1] ^^^ subByte (expandKey key)[r][14] ∧
      (expandKey key)[r + 1][2] = (expandKey key)[r][2] ^^^ subByte (expandKey key)[r][15] ∧
      (expandKey key)[r + 1][3] = (expandKey key)[r][3] ^^^ subByte (expandKey key)[r][12] ∧
      ∀ (j : Nat) (_ : j < 12),
        (expandKey key)[r + 1][4 + j] = (expandKey key)[r][4 + j] ^^^ (expandKey key)[r + 1][j]

/-- 95_test_vectors.md section 2, the two vectors the source itself gives (derived): the round-10 key of
2b7e151628aed2a6abf7158809cf4f3c is d014f9a8c9ee2589e13f0cc8b6630ca6, and under that key the block
3243f6a8885a308d313198a2e0370734 encrypts to 3925841d02dc09fbdc118597196a0b32. -/
def Obligations.TheSourcesTwoVectors : Prop :=
  (expandKey #v[0x2b, 0x7e, 0x15, 0x16, 0x28, 0xae, 0xd2, 0xa6, 0xab, 0xf7, 0x15, 0x88, 0x09, 0xcf, 0x4f, 0x3c])[10] =
    #v[0xd0, 0x14, 0xf9, 0xa8, 0xc9, 0xee, 0x25, 0x89, 0xe1, 0x3f, 0x0c, 0xc8, 0xb6, 0x63, 0x0c, 0xa6] ∧
  encryptBlock #v[0x32, 0x43, 0xf6, 0xa8, 0x88, 0x5a, 0x30, 0x8d, 0x31, 0x31, 0x98, 0xa2, 0xe0, 0x37, 0x07, 0x34]
    (expandKey #v[0x2b, 0x7e, 0x15, 0x16, 0x28, 0xae, 0xd2, 0xa6, 0xab, 0xf7, 0x15, 0x88, 0x09, 0xcf, 0x4f, 0x3c]) =
    #v[0x39, 0x25, 0x84, 0x1d, 0x02, 0xdc, 0x09, 0xfb, 0xdc, 0x11, 0x85, 0x97, 0x19, 0x6a, 0x0b, 0x32]

/-- 44_padding.md R150 and R151: padLength is 16 minus the remainder, or 16, and lies in 1..16; paddedLength is the least
multiple of 16 strictly greater than n, not reduced modulo 2^32. -/
def Obligations.PaddedLengthIsTheNextMultiple : Prop :=
  (∀ n : Nat, (n % 16 ≠ 0 → padLength n = 16 - n % 16) ∧ (n % 16 = 0 → padLength n = 16) ∧
    1 ≤ padLength n ∧ padLength n ≤ 16 ∧ paddedLength n = n + padLength n ∧
    paddedLength n % 16 = 0 ∧ n < paddedLength n ∧ (∀ m, m % 16 = 0 → n < m → paddedLength n ≤ m)) ∧
  padLength 0 = 16 ∧ padLength 15 = 1 ∧ padLength 16 = 16 ∧ padLength 17 = 15 ∧ padLength 20 = 12 ∧
  paddedLength 20 = 32 ∧ paddedLength 0xFFFFFFEF = 0xFFFFFFF0 ∧ paddedLength 0xFFFFFFF0 = 0x100000000 ∧
  paddedLength 0xFFFFFFFF = 0x100000000

/-- 44_padding.md R153 with 45_mode_commands.md R166 (derived): RemovePadding succeeds with length m exactly
when m bytes are followed by p bytes up to the buffer's end, all equal to p, with p in 1..16; in every other case, the empty buffer included, it fails with InvalidPadding; and DECRYPT
leaves the buffer's bytes in place in the model's field for OBUF, those at or above the result length and those of a failed
buffer included, which is the model's choice (Log 5). -/
def Obligations.RemovePaddingStripsATrailer : Prop :=
  (∀ (buf : List Byte) (m : Nat), removePadding buf = .ok m ↔
    ∃ (p : Byte), 1 ≤ p.toNat ∧ p.toNat ≤ 16 ∧ buf.length = m + p.toNat ∧ buf.drop m = List.replicate p.toNat p) ∧
  (∀ buf : List Byte, (∀ m, removePadding buf ≠ .ok m) → removePadding buf = .error .invalidPadding) ∧
  removePadding [] = .error .invalidPadding ∧
  (∀ (buf : List Byte) (s : State) (i : Nat), i < buf.length → Memory.read (finishDecrypt buf s).obuf i = buf[i]?)

/-- 44_padding.md R152 with R153 (derived): a padded message unpads to its own length. -/
def Obligations.UnpadUndoesPad : Prop :=
  ∀ msg : List Byte, removePadding (msg ++ padBytes msg.length) = .ok msg.length

/-! ## The result registers -/

/-- 10_state.md R24, R25, R29 with 60_exceptions.md R208 (derived): STATUS, ERRCODE and OLEN change in a step only at a
completion, at an issue, which clears ERRCODE and OLEN, or at a reset, which clears all three; so an error stays recorded
until the next issue or reset. -/
def Obligations.ResultRegistersChangeOnlyAtIssueCompletionReset : Prop :=
  ∀ s t : State, step s = .next t → t.status ≠ s.status ∨ t.errcode ≠ s.errcode ∨ t.olen ≠ s.olen →
    (s.status.busy = true ∧ t.status.busy = false ∧ t.status.done = true) ∨
    (∃ w rest, s.status.busy = false ∧ s.host = .write 0x00000000 w :: rest ∧ t.host = rest ∧
      t.status = { busy := true, done := false, err := false } ∧ t.errcode = .ok ∧ t.olen = 0) ∨
    (∃ rest, s.host = .reset :: rest ∧ t.host = rest ∧
      t.status = { busy := false, done := false, err := false } ∧ t.errcode = .ok ∧ t.olen = 0)
end

