-- ==== Sys2Proof/Laws/Chaining.lean ====
section
/-! SUPPORT. Windows and bytes are two views of the same data, and the lengths and entries of chained blocks. -/

namespace Sys2Proof.Machine

theorem vector16_eta (b : Block) :
    b = #v[b[0], b[1], b[2], b[3], b[4], b[5], b[6], b[7], b[8], b[9], b[10], b[11], b[12], b[13], b[14], b[15]] := by
  apply Vector.ext
  intro k h
  interval_cases k <;> rfl

theorem toList_eq (b : Block) :
    b.toList = [b[0], b[1], b[2], b[3], b[4], b[5], b[6], b[7], b[8], b[9], b[10], b[11], b[12], b[13], b[14], b[15]] := by
  conv => lhs; rw [vector16_eta b]
  rfl

@[simp] theorem blockBytes_nil : blockBytes [] = [] := rfl

@[simp] theorem blockBytes_cons (b : Block) (bs : List Block) : blockBytes (b :: bs) = b.toList ++ blockBytes bs := by
  simp [blockBytes]

@[simp] theorem blockBytes_length (bs : List Block) : (blockBytes bs).length = 16 * bs.length := by
  induction bs with
  | nil => rfl
  | cons b bs ih =>
    simp only [blockBytes_cons, List.length_append, ih, Vector.length_toList, List.length_cons]
    omega

/-- Byte 16i + k of a sequence of blocks is byte k of block i. -/
theorem blockBytes_get (bs : List Block) (i k : Nat) (hi : i < bs.length) (hk : k < 16) :
    (blockBytes bs)[16 * i + k]? = some bs[i][k] := by
  induction bs generalizing i with
  | nil => simp at hi
  | cons b bs ih =>
    rw [blockBytes_cons]
    cases i with
    | zero =>
      rw [List.getElem?_append_left (by simpa using hk)]
      simp
    | succ i =>
      rw [List.getElem?_append_right (by simp; omega)]
      have : 16 * (i + 1) + k - b.toList.length = 16 * i + k := by simp; omega
      rw [this, ih i (by simpa using hi)]
      rfl

theorem windows_cons (b : Block) (rest : List Byte) : windows (b.toList ++ rest) = b :: windows rest := by
  rw [toList_eq]
  simp only [List.cons_append, List.nil_append, windows, ← vector16_eta]

/-- Cutting the bytes of blocks into windows gives the blocks back. -/
@[simp] theorem windows_blockBytes (bs : List Block) : windows (blockBytes bs) = bs := by
  induction bs with
  | nil => rfl
  | cons b bs ih => rw [blockBytes_cons, windows_cons, ih]

/-- A sequence whose length is a multiple of 16 is made of blocks. -/
theorem exists_blocks (n : Nat) (bs : List Byte) (h : bs.length = 16 * n) : ∃ xs : List Block, bs = blockBytes xs := by
  induction n generalizing bs with
  | zero => exact ⟨[], List.length_eq_zero_iff.1 h⟩
  | succ n ih =>
    obtain ⟨xs, hx⟩ := ih (bs.drop 16) (by simp; omega)
    refine ⟨⟨(bs.take 16).toArray, by simp; omega⟩ :: xs, ?_⟩
    rw [blockBytes_cons, ← hx]
    simp

/-- A sequence whose length is a multiple of 16 is the bytes of its windows. -/
theorem blockBytes_windows (bs : List Byte) (h : bs.length % 16 = 0) : blockBytes (windows bs) = bs := by
  obtain ⟨xs, rfl⟩ := exists_blocks (bs.length / 16) bs (by omega)
  rw [windows_blockBytes]

theorem windows_length (bs : List Byte) (h : bs.length % 16 = 0) : (windows bs).length = bs.length / 16 := by
  obtain ⟨xs, rfl⟩ := exists_blocks (bs.length / 16) bs (by omega)
  simp

/-- Window i is bytes 16i to 16i+15. -/
theorem windows_get (bs : List Byte) (h : bs.length % 16 = 0) (i k : Nat) (hi : i < (windows bs).length) (hk : k < 16) :
    some (windows bs)[i][k] = bs[16 * i + k]? := by
  conv => rhs; rw [← blockBytes_windows bs h]
  rw [blockBytes_get]

@[simp] theorem ecbEncrypt_length (rk : KeySchedule) (bs : List Block) : (ecbEncrypt rk bs).length = bs.length := by
  simp [ecbEncrypt]

@[simp] theorem ecbDecrypt_length (rk : KeySchedule) (bs : List Block) : (ecbDecrypt rk bs).length = bs.length := by
  simp [ecbDecrypt]

@[simp] theorem cbcEncrypt_length (rk : KeySchedule) (p : Block) (bs : List Block) :
    (cbcEncrypt rk p bs).length = bs.length := by
  induction bs generalizing p with
  | nil => rfl
  | cons b bs ih => simp [cbcEncrypt, ih]

@[simp] theorem cbcDecrypt_length (rk : KeySchedule) (p : Block) (bs : List Block) :
    (cbcDecrypt rk p bs).length = bs.length := by
  induction bs generalizing p with
  | nil => rfl
  | cons b bs ih => simp [cbcDecrypt, ih]

/-- The chaining value of block i (R168, R170): the IV for i = 0, else the ciphertext block before it. -/
def previous (iv : Block) (cs : List Block) (i : Nat) : Block := (iv :: cs).getD i iv

theorem previous_zero (iv : Block) (cs : List Block) : previous iv cs 0 = iv := rfl

theorem previous_succ (iv : Block) (cs : List Block) (i : Nat) (h : i < cs.length) : previous iv cs (i + 1) = cs[i] := by
  simp [previous, h]

/-- Block i of a CBC encryption. -/
theorem cbcEncrypt_get (rk : KeySchedule) (iv : Block) (bs : List Block) (i : Nat) (h : i < bs.length) :
    (cbcEncrypt rk iv bs)[i]'(by simpa using h) =
      encryptBlock (xorBlock bs[i] (previous iv (cbcEncrypt rk iv bs) i)) rk := by
  induction bs generalizing iv i with
  | nil => simp at h
  | cons b bs ih =>
    cases i with
    | zero => rfl
    | succ i =>
      have hi : i < bs.length := by simpa using h
      simp only [cbcEncrypt, List.getElem_cons_succ]
      rw [ih _ i hi]
      cases i with
      | zero => simp [previous]
      | succ i => simp [previous, Nat.lt_of_succ_lt hi]

/-- Block i of a CBC decryption. -/
theorem cbcDecrypt_get (rk : KeySchedule) (iv : Block) (cs : List Block) (i : Nat) (h : i < cs.length) :
    (cbcDecrypt rk iv cs)[i]'(by simpa using h) = xorBlock (decryptBlock cs[i] rk) (previous iv cs i) := by
  induction cs generalizing iv i with
  | nil => simp at h
  | cons c cs ih =>
    cases i with
    | zero => rfl
    | succ i =>
      have hi : i < cs.length := by simpa using h
      simp only [cbcDecrypt, List.getElem_cons_succ]
      rw [ih _ i hi]
      cases i with
      | zero => simp [previous]
      | succ i => simp [previous, Nat.lt_of_succ_lt hi]

end Sys2Proof.Machine
end

