-- ==== Sys2Proof/Laws/Padding.lean ====
section
/-! SUPPORT. The lengths of padding, and what RemovePadding answers. -/

namespace Sys2Proof.Machine

theorem padLength_pos (n : Nat) : 1 ≤ padLength n := by simp only [padLength]; split <;> omega

theorem padLength_le (n : Nat) : padLength n ≤ 16 := by simp only [padLength]; split <;> omega

@[simp] theorem padBytes_length (n : Nat) : (padBytes n).length = padLength n := by simp [padBytes]

theorem paddedLength_mod (n : Nat) : paddedLength n % 16 = 0 := by simp only [paddedLength, padLength]; split <;> omega

/-- The only error of RemovePadding is InvalidPadding (60_exceptions.md R201). -/
theorem removePadding_error {buf : List Byte} {k : ErrorKind} (h : removePadding buf = .error k) : k = .invalidPadding := by
  unfold removePadding at h
  split at h
  · cases h; rfl
  · repeat' split at h
    all_goals first | (cases h; rfl) | cases h

/-- What a successful RemovePadding says about the buffer. -/
theorem removePadding_ok {buf : List Byte} {m : Nat} (h : removePadding buf = .ok m) :
    ∃ p : Byte, buf.getLast? = some p ∧ 1 ≤ p.toNat ∧ p.toNat ≤ 16 ∧ p.toNat ≤ buf.length ∧
      (buf.drop (buf.length - p.toNat)).all (· == p) = true ∧ m = buf.length - p.toNat := by
  unfold removePadding at h
  split at h
  · cases h
  · rename_i p hp
    repeat' split at h
    all_goals try cases h
    exact ⟨p, hp, by omega, by omega, by omega, by assumption, rfl⟩

theorem removePadding_le {buf : List Byte} {m : Nat} (h : removePadding buf = .ok m) :
    m < buf.length ∧ buf.length ≤ m + 16 := by
  obtain ⟨p, -, h1, h2, h3, -, rfl⟩ := removePadding_ok h
  omega

end Sys2Proof.Machine
end

