-- ==== Sys2Proof/Laws/State.lean ====
section
/-! SUPPORT. One lemma per field per update of the state, so that no later proof unfolds a record update. -/

namespace Sys2Proof.Machine

variable (s : State)

/-! ## setContext -/

@[simp] theorem setContext_key (key iv : Block) (ctx : Ctx) : (setContext key iv ctx s).key = key := rfl
@[simp] theorem setContext_iv (key iv : Block) (ctx : Ctx) : (setContext key iv ctx s).iv = iv := rfl
@[simp] theorem setContext_ctx (key iv : Block) (ctx : Ctx) : (setContext key iv ctx s).ctx = ctx := rfl
@[simp] theorem setContext_status (key iv : Block) (ctx : Ctx) : (setContext key iv ctx s).status = s.status := rfl
@[simp] theorem setContext_errcode (key iv : Block) (ctx : Ctx) : (setContext key iv ctx s).errcode = s.errcode := rfl
@[simp] theorem setContext_klen (key iv : Block) (ctx : Ctx) : (setContext key iv ctx s).klen = s.klen := rfl
@[simp] theorem setContext_vlen (key iv : Block) (ctx : Ctx) : (setContext key iv ctx s).vlen = s.vlen := rfl
@[simp] theorem setContext_ilen (key iv : Block) (ctx : Ctx) : (setContext key iv ctx s).ilen = s.ilen := rfl
@[simp] theorem setContext_xlen (key iv : Block) (ctx : Ctx) : (setContext key iv ctx s).xlen = s.xlen := rfl
@[simp] theorem setContext_olen (key iv : Block) (ctx : Ctx) : (setContext key iv ctx s).olen = s.olen := rfl
@[simp] theorem setContext_cmdr (key iv : Block) (ctx : Ctx) : (setContext key iv ctx s).cmdr = s.cmdr := rfl
@[simp] theorem setContext_ibuf (key iv : Block) (ctx : Ctx) : (setContext key iv ctx s).ibuf = s.ibuf := rfl
@[simp] theorem setContext_obuf (key iv : Block) (ctx : Ctx) : (setContext key iv ctx s).obuf = s.obuf := rfl
@[simp] theorem setContext_hRdata (key iv : Block) (ctx : Ctx) : (setContext key iv ctx s).hRdata = s.hRdata := rfl
@[simp] theorem setContext_cap (key iv : Block) (ctx : Ctx) : (setContext key iv ctx s).cap = s.cap := rfl
@[simp] theorem setContext_fresh (key iv : Block) (ctx : Ctx) : (setContext key iv ctx s).fresh = s.fresh := rfl
@[simp] theorem setContext_resets (key iv : Block) (ctx : Ctx) : (setContext key iv ctx s).resets = s.resets := rfl
@[simp] theorem setContext_host (key iv : Block) (ctx : Ctx) : (setContext key iv ctx s).host = s.host := rfl
@[simp] theorem setContext_turns (key iv : Block) (ctx : Ctx) : (setContext key iv ctx s).turns = s.turns := rfl

/-! ## storeOutput -/

@[simp] theorem storeOutput_key (bs : List Byte) : (storeOutput bs s).key = s.key := rfl
@[simp] theorem storeOutput_iv (bs : List Byte) : (storeOutput bs s).iv = s.iv := rfl
@[simp] theorem storeOutput_ctx (bs : List Byte) : (storeOutput bs s).ctx = s.ctx := rfl
@[simp] theorem storeOutput_status (bs : List Byte) : (storeOutput bs s).status = s.status := rfl
@[simp] theorem storeOutput_errcode (bs : List Byte) : (storeOutput bs s).errcode = s.errcode := rfl
@[simp] theorem storeOutput_klen (bs : List Byte) : (storeOutput bs s).klen = s.klen := rfl
@[simp] theorem storeOutput_vlen (bs : List Byte) : (storeOutput bs s).vlen = s.vlen := rfl
@[simp] theorem storeOutput_ilen (bs : List Byte) : (storeOutput bs s).ilen = s.ilen := rfl
@[simp] theorem storeOutput_xlen (bs : List Byte) : (storeOutput bs s).xlen = s.xlen := rfl
@[simp] theorem storeOutput_olen (bs : List Byte) : (storeOutput bs s).olen = s.olen := rfl
@[simp] theorem storeOutput_cmdr (bs : List Byte) : (storeOutput bs s).cmdr = s.cmdr := rfl
@[simp] theorem storeOutput_ibuf (bs : List Byte) : (storeOutput bs s).ibuf = s.ibuf := rfl
@[simp] theorem storeOutput_obuf (bs : List Byte) : (storeOutput bs s).obuf = Memory.writeBytes s.obuf 0 bs := rfl
@[simp] theorem storeOutput_hRdata (bs : List Byte) : (storeOutput bs s).hRdata = s.hRdata := rfl
@[simp] theorem storeOutput_cap (bs : List Byte) : (storeOutput bs s).cap = s.cap := rfl
@[simp] theorem storeOutput_fresh (bs : List Byte) : (storeOutput bs s).fresh = s.fresh := rfl
@[simp] theorem storeOutput_resets (bs : List Byte) : (storeOutput bs s).resets = s.resets := rfl
@[simp] theorem storeOutput_host (bs : List Byte) : (storeOutput bs s).host = s.host := rfl
@[simp] theorem storeOutput_turns (bs : List Byte) : (storeOutput bs s).turns = s.turns := rfl

/-! ## issue -/

@[simp] theorem issue_key (w : Word) : (issue w s).key = s.key := rfl
@[simp] theorem issue_iv (w : Word) : (issue w s).iv = s.iv := rfl
@[simp] theorem issue_ctx (w : Word) : (issue w s).ctx = s.ctx := rfl
@[simp] theorem issue_status (w : Word) : (issue w s).status = statusAtIssue := rfl
@[simp] theorem issue_errcode (w : Word) : (issue w s).errcode = .ok := rfl
@[simp] theorem issue_klen (w : Word) : (issue w s).klen = s.klen := rfl
@[simp] theorem issue_vlen (w : Word) : (issue w s).vlen = s.vlen := rfl
@[simp] theorem issue_ilen (w : Word) : (issue w s).ilen = s.ilen := rfl
@[simp] theorem issue_xlen (w : Word) : (issue w s).xlen = s.xlen := rfl
@[simp] theorem issue_olen (w : Word) : (issue w s).olen = 0 := rfl
@[simp] theorem issue_cmdr (w : Word) : (issue w s).cmdr = w := rfl
@[simp] theorem issue_ibuf (w : Word) : (issue w s).ibuf = s.ibuf := rfl
@[simp] theorem issue_obuf (w : Word) : (issue w s).obuf = s.obuf := rfl
@[simp] theorem issue_hRdata (w : Word) : (issue w s).hRdata = s.hRdata := rfl
@[simp] theorem issue_cap (w : Word) : (issue w s).cap = s.cap := rfl
@[simp] theorem issue_fresh (w : Word) : (issue w s).fresh = s.fresh := rfl
@[simp] theorem issue_resets (w : Word) : (issue w s).resets = s.resets := rfl
@[simp] theorem issue_host (w : Word) : (issue w s).host = s.host := rfl
@[simp] theorem issue_turns (w : Word) : (issue w s).turns = s.turns := rfl

/-! ## succeed -/

@[simp] theorem succeed_key (n : Word) : (succeed n s).key = s.key := rfl
@[simp] theorem succeed_iv (n : Word) : (succeed n s).iv = s.iv := rfl
@[simp] theorem succeed_ctx (n : Word) : (succeed n s).ctx = s.ctx := rfl
@[simp] theorem succeed_status (n : Word) : (succeed n s).status = statusAtSuccess := rfl
@[simp] theorem succeed_errcode (n : Word) : (succeed n s).errcode = .ok := rfl
@[simp] theorem succeed_klen (n : Word) : (succeed n s).klen = s.klen := rfl
@[simp] theorem succeed_vlen (n : Word) : (succeed n s).vlen = s.vlen := rfl
@[simp] theorem succeed_ilen (n : Word) : (succeed n s).ilen = s.ilen := rfl
@[simp] theorem succeed_xlen (n : Word) : (succeed n s).xlen = s.xlen := rfl
@[simp] theorem succeed_olen (n : Word) : (succeed n s).olen = n := rfl
@[simp] theorem succeed_cmdr (n : Word) : (succeed n s).cmdr = s.cmdr := rfl
@[simp] theorem succeed_ibuf (n : Word) : (succeed n s).ibuf = s.ibuf := rfl
@[simp] theorem succeed_obuf (n : Word) : (succeed n s).obuf = s.obuf := rfl
@[simp] theorem succeed_hRdata (n : Word) : (succeed n s).hRdata = s.hRdata := rfl
@[simp] theorem succeed_cap (n : Word) : (succeed n s).cap = s.cap := rfl
@[simp] theorem succeed_fresh (n : Word) : (succeed n s).fresh = s.fresh := rfl
@[simp] theorem succeed_resets (n : Word) : (succeed n s).resets = s.resets := rfl
@[simp] theorem succeed_host (n : Word) : (succeed n s).host = s.host := rfl
@[simp] theorem succeed_turns (n : Word) : (succeed n s).turns = s.turns := rfl

/-! ## fail -/

@[simp] theorem fail_key (k : ErrorKind) : (fail k s).key = s.key := rfl
@[simp] theorem fail_iv (k : ErrorKind) : (fail k s).iv = s.iv := rfl
@[simp] theorem fail_ctx (k : ErrorKind) : (fail k s).ctx = s.ctx := rfl
@[simp] theorem fail_status (k : ErrorKind) : (fail k s).status = statusAtError := rfl
@[simp] theorem fail_errcode (k : ErrorKind) : (fail k s).errcode = .failed k := rfl
@[simp] theorem fail_klen (k : ErrorKind) : (fail k s).klen = s.klen := rfl
@[simp] theorem fail_vlen (k : ErrorKind) : (fail k s).vlen = s.vlen := rfl
@[simp] theorem fail_ilen (k : ErrorKind) : (fail k s).ilen = s.ilen := rfl
@[simp] theorem fail_xlen (k : ErrorKind) : (fail k s).xlen = s.xlen := rfl
@[simp] theorem fail_olen (k : ErrorKind) : (fail k s).olen = 0 := rfl
@[simp] theorem fail_cmdr (k : ErrorKind) : (fail k s).cmdr = s.cmdr := rfl
@[simp] theorem fail_ibuf (k : ErrorKind) : (fail k s).ibuf = s.ibuf := rfl
@[simp] theorem fail_obuf (k : ErrorKind) : (fail k s).obuf = s.obuf := rfl
@[simp] theorem fail_hRdata (k : ErrorKind) : (fail k s).hRdata = s.hRdata := rfl
@[simp] theorem fail_cap (k : ErrorKind) : (fail k s).cap = s.cap := rfl
@[simp] theorem fail_fresh (k : ErrorKind) : (fail k s).fresh = s.fresh := rfl
@[simp] theorem fail_resets (k : ErrorKind) : (fail k s).resets = s.resets := rfl
@[simp] theorem fail_host (k : ErrorKind) : (fail k s).host = s.host := rfl
@[simp] theorem fail_turns (k : ErrorKind) : (fail k s).turns = s.turns := rfl

/-! ## setIbufByte -/

@[simp] theorem setIbufByte_key (i : Nat) (v : Word) : (setIbufByte i v s).key = s.key := rfl
@[simp] theorem setIbufByte_iv (i : Nat) (v : Word) : (setIbufByte i v s).iv = s.iv := rfl
@[simp] theorem setIbufByte_ctx (i : Nat) (v : Word) : (setIbufByte i v s).ctx = s.ctx := rfl
@[simp] theorem setIbufByte_status (i : Nat) (v : Word) : (setIbufByte i v s).status = s.status := rfl
@[simp] theorem setIbufByte_errcode (i : Nat) (v : Word) : (setIbufByte i v s).errcode = s.errcode := rfl
@[simp] theorem setIbufByte_klen (i : Nat) (v : Word) : (setIbufByte i v s).klen = s.klen := rfl
@[simp] theorem setIbufByte_vlen (i : Nat) (v : Word) : (setIbufByte i v s).vlen = s.vlen := rfl
@[simp] theorem setIbufByte_ilen (i : Nat) (v : Word) : (setIbufByte i v s).ilen = s.ilen := rfl
@[simp] theorem setIbufByte_xlen (i : Nat) (v : Word) : (setIbufByte i v s).xlen = s.xlen := rfl
@[simp] theorem setIbufByte_olen (i : Nat) (v : Word) : (setIbufByte i v s).olen = s.olen := rfl
@[simp] theorem setIbufByte_cmdr (i : Nat) (v : Word) : (setIbufByte i v s).cmdr = s.cmdr := rfl
@[simp] theorem setIbufByte_ibuf (i : Nat) (v : Word) : (setIbufByte i v s).ibuf = Memory.write s.ibuf i (v.setWidth 8) := rfl
@[simp] theorem setIbufByte_obuf (i : Nat) (v : Word) : (setIbufByte i v s).obuf = s.obuf := rfl
@[simp] theorem setIbufByte_hRdata (i : Nat) (v : Word) : (setIbufByte i v s).hRdata = s.hRdata := rfl
@[simp] theorem setIbufByte_cap (i : Nat) (v : Word) : (setIbufByte i v s).cap = s.cap := rfl
@[simp] theorem setIbufByte_fresh (i : Nat) (v : Word) : (setIbufByte i v s).fresh = s.fresh := rfl
@[simp] theorem setIbufByte_resets (i : Nat) (v : Word) : (setIbufByte i v s).resets = s.resets := rfl
@[simp] theorem setIbufByte_host (i : Nat) (v : Word) : (setIbufByte i v s).host = s.host := rfl
@[simp] theorem setIbufByte_turns (i : Nat) (v : Word) : (setIbufByte i v s).turns = s.turns := rfl

/-! ## hostRead -/

@[simp] theorem hostRead_key (a : Word) : (hostRead a s).key = s.key := rfl
@[simp] theorem hostRead_iv (a : Word) : (hostRead a s).iv = s.iv := rfl
@[simp] theorem hostRead_ctx (a : Word) : (hostRead a s).ctx = s.ctx := rfl
@[simp] theorem hostRead_status (a : Word) : (hostRead a s).status = s.status := rfl
@[simp] theorem hostRead_errcode (a : Word) : (hostRead a s).errcode = s.errcode := rfl
@[simp] theorem hostRead_klen (a : Word) : (hostRead a s).klen = s.klen := rfl
@[simp] theorem hostRead_vlen (a : Word) : (hostRead a s).vlen = s.vlen := rfl
@[simp] theorem hostRead_ilen (a : Word) : (hostRead a s).ilen = s.ilen := rfl
@[simp] theorem hostRead_xlen (a : Word) : (hostRead a s).xlen = s.xlen := rfl
@[simp] theorem hostRead_olen (a : Word) : (hostRead a s).olen = s.olen := rfl
@[simp] theorem hostRead_cmdr (a : Word) : (hostRead a s).cmdr = s.cmdr := rfl
@[simp] theorem hostRead_ibuf (a : Word) : (hostRead a s).ibuf = s.ibuf := rfl
@[simp] theorem hostRead_obuf (a : Word) : (hostRead a s).obuf = s.obuf := rfl
@[simp] theorem hostRead_hRdata (a : Word) : (hostRead a s).hRdata = hostReadValue s a := rfl
@[simp] theorem hostRead_cap (a : Word) : (hostRead a s).cap = s.cap := rfl
@[simp] theorem hostRead_fresh (a : Word) : (hostRead a s).fresh = s.fresh + 1 := rfl
@[simp] theorem hostRead_resets (a : Word) : (hostRead a s).resets = s.resets := rfl
@[simp] theorem hostRead_host (a : Word) : (hostRead a s).host = s.host := rfl
@[simp] theorem hostRead_turns (a : Word) : (hostRead a s).turns = s.turns := rfl

/-! ## resetStep -/

@[simp] theorem resetStep_key : (resetStep s).key = State.reset.key := rfl
@[simp] theorem resetStep_iv : (resetStep s).iv = State.reset.iv := rfl
@[simp] theorem resetStep_ctx : (resetStep s).ctx = State.reset.ctx := rfl
@[simp] theorem resetStep_status : (resetStep s).status = State.reset.status := rfl
@[simp] theorem resetStep_errcode : (resetStep s).errcode = State.reset.errcode := rfl
@[simp] theorem resetStep_klen : (resetStep s).klen = State.reset.klen := rfl
@[simp] theorem resetStep_vlen : (resetStep s).vlen = State.reset.vlen := rfl
@[simp] theorem resetStep_ilen : (resetStep s).ilen = State.reset.ilen := rfl
@[simp] theorem resetStep_xlen : (resetStep s).xlen = State.reset.xlen := rfl
@[simp] theorem resetStep_olen : (resetStep s).olen = State.reset.olen := rfl
@[simp] theorem resetStep_cmdr : (resetStep s).cmdr = State.reset.cmdr := rfl
@[simp] theorem resetStep_ibuf : (resetStep s).ibuf = State.reset.ibuf := rfl
@[simp] theorem resetStep_obuf : (resetStep s).obuf = State.reset.obuf := rfl
@[simp] theorem resetStep_hRdata : (resetStep s).hRdata = s.hRdata := rfl
@[simp] theorem resetStep_cap : (resetStep s).cap = s.cap := rfl
@[simp] theorem resetStep_fresh : (resetStep s).fresh = s.fresh := rfl
@[simp] theorem resetStep_resets : (resetStep s).resets = s.resets + 1 := rfl
@[simp] theorem resetStep_host : (resetStep s).host = s.host := rfl
@[simp] theorem resetStep_turns : (resetStep s).turns = s.turns := rfl

/-! ## State.reset -/

@[simp] theorem reset_key : State.reset.key = zeroBlock := rfl
@[simp] theorem reset_iv : State.reset.iv = zeroBlock := rfl
@[simp] theorem reset_ctx : State.reset.ctx = .none := rfl
@[simp] theorem reset_status : State.reset.status = { busy := false, done := false, err := false } := rfl
@[simp] theorem reset_errcode : State.reset.errcode = .ok := rfl
@[simp] theorem reset_klen : State.reset.klen = 0 := rfl
@[simp] theorem reset_vlen : State.reset.vlen = 0 := rfl
@[simp] theorem reset_ilen : State.reset.ilen = 0 := rfl
@[simp] theorem reset_xlen : State.reset.xlen = 0 := rfl
@[simp] theorem reset_olen : State.reset.olen = 0 := rfl
@[simp] theorem reset_cmdr : State.reset.cmdr = 0 := rfl
@[simp] theorem reset_ibuf : State.reset.ibuf = [] := rfl
@[simp] theorem reset_obuf : State.reset.obuf = [] := rfl

end Sys2Proof.Machine
end

