-- ==== Sys2Proof/Laws/Commands.lean ====
section
/-! SUPPORT. What a command can answer: one inversion lemma per shared operation, and one for `exec`. -/

namespace Sys2Proof.Machine

/-! ## Operands -/

/-- The IBUF byte a command reads depends on IBUF and on the number of resets only. -/
theorem ibufByte_congr {s u : State} (hi : u.ibuf = s.ibuf) (hr : u.resets = s.resets) (j : Nat) :
    ibufByte u j = ibufByte s j := by
  simp only [ibufByte, hi, hr]

/-- A byte the host has written since reset. -/
theorem ibufByte_written {s : State} {j : Nat} {b : Byte} (h : Memory.read s.ibuf j = some b) : ibufByte s j = b := by
  simp [ibufByte, h]

@[simp] theorem ibufBytes_length (s : State) (n : Nat) : (ibufBytes s n).length = n := by simp [ibufBytes]

theorem ibufBytes_get (s : State) (n j : Nat) (h : j < n) : (ibufBytes s n)[j]? = some (ibufByte s j) := by
  simp [ibufBytes, h]

@[simp] theorem paddedMessage_length (s : State) : (paddedMessage s).length = paddedLength (inputLength s) := by
  simp [paddedMessage, paddedLength]

@[simp] theorem ciphertext_length (s : State) : (ciphertext s).length = inputLength s := by simp [ciphertext]

/-- Byte j of the padded plaintext: a message byte below ILEN, the pad length above. -/
theorem paddedMessage_get (s : State) (j : Nat) (h : j < paddedLength (inputLength s)) :
    (paddedMessage s)[j]? =
      some (if j < inputLength s then ibufByte s j else BitVec.ofNat 8 (padLength (inputLength s))) := by
  unfold paddedMessage
  split
  · rename_i hj
    rw [List.getElem?_append_left (by simpa using hj), ibufBytes_get s _ j hj]
  · rename_i hj
    rw [List.getElem?_append_right (by simpa using hj)]
    have h2 : j - inputLength s < padLength (inputLength s) := by simp only [paddedLength] at h; omega
    simp [padBytes, h2]

theorem isSixteen_iff (w : Word) : isSixteen w = true ↔ w = 16#32 := by
  simp only [isSixteen, beq_iff_eq]
  constructor
  · intro h; exact BitVec.eq_of_toNat_eq h
  · intro h; rw [h]; rfl

/-! ## ENCRYPT and DECRYPT once the context is known -/

theorem encryptWith_cases (chain : List Block → List Block) (s : State) :
    (expectedLength s ≠ paddedLength (inputLength s) ∧ encryptWith chain s = fail .lengthMismatch s) ∨
    (expectedLength s = paddedLength (inputLength s) ∧ s.cap.bytes < expectedLength s ∧
      encryptWith chain s = fail .capacityExceeded s) ∨
    (expectedLength s = paddedLength (inputLength s) ∧ expectedLength s ≤ s.cap.bytes ∧
      encryptWith chain s = succeed s.xlen (storeOutput (blockBytes (chain (windows (paddedMessage s)))) s)) := by
  unfold encryptWith
  split
  · exact .inl ⟨‹_›, rfl⟩
  · rename_i h
    split
    · exact .inr (.inl ⟨by simpa using h, ‹_›, rfl⟩)
    · exact .inr (.inr ⟨by simpa using h, by omega, rfl⟩)

theorem finishDecrypt_cases (out : List Byte) (s : State) :
    (removePadding out = .error .invalidPadding ∧ finishDecrypt out s = fail .invalidPadding (storeOutput out s)) ∨
    (∃ m, removePadding out = .ok m ∧ finishDecrypt out s = succeed (BitVec.ofNat 32 m) (storeOutput out s)) := by
  unfold finishDecrypt
  split
  · rename_i k h
    cases removePadding_error h
    exact .inl ⟨h, rfl⟩
  · rename_i m h
    exact .inr ⟨m, h, rfl⟩

theorem decryptWith_cases (chain : List Block → List Block) (s : State) :
    ((inputLength s = 0 ∨ inputLength s % 16 ≠ 0) ∧ decryptWith chain s = fail .lengthMismatch s) ∨
    (inputLength s ≠ 0 ∧ inputLength s % 16 = 0 ∧ s.cap.bytes < inputLength s ∧
      decryptWith chain s = fail .capacityExceeded s) ∨
    (inputLength s ≠ 0 ∧ inputLength s % 16 = 0 ∧ inputLength s ≤ s.cap.bytes ∧
      decryptWith chain s = finishDecrypt (blockBytes (chain (windows (ciphertext s)))) s) := by
  unfold decryptWith
  split
  · exact .inl ⟨‹_›, rfl⟩
  · rename_i h
    split
    · exact .inr (.inl ⟨by omega, by omega, ‹_›, rfl⟩)
    · exact .inr (.inr ⟨by omega, by omega, by omega, rfl⟩)

/-! ## exec -/

/-- A strategy that keeps the number of blocks. -/
abbrev KeepsLength (chain : List Block → List Block) : Prop := ∀ bs, (chain bs).length = bs.length

/-- What a completed command can have done. -/
inductive Completed (i : Instr) (s : State) : State → Prop where
  /-- It failed before it changed anything. -/
  | failed (k : ErrorKind) (h : k ≠ .invalidPadding) : Completed i s (fail k s)
  /-- INIT_ECB succeeded. -/
  | ecb (hi : i = .initEcb) : Completed i s (succeed 0 (setContext (keyOperand s) zeroBlock .ecb s))
  /-- INIT_CBC succeeded. -/
  | cbc (hi : i = .initCbc) : Completed i s (succeed 0 (setContext (keyOperand s) (ivOperand s) .cbc s))
  /-- ENCRYPT succeeded: XLEN bytes were stored. -/
  | encrypted (hi : i = .encrypt) (out : List Byte) (hl : out.length = s.xlen.toNat) (hc : s.xlen.toNat ≤ s.cap.bytes)
      (hx : s.xlen.toNat = paddedLength s.ilen.toNat) : Completed i s (succeed s.xlen (storeOutput out s))
  /-- DECRYPT stored ILEN bytes and the padding was bad. -/
  | badPadding (hi : i = .decrypt) (out : List Byte) (hl : out.length = s.ilen.toNat) (hc : s.ilen.toNat ≤ s.cap.bytes) :
      Completed i s (fail .invalidPadding (storeOutput out s))
  /-- DECRYPT succeeded. -/
  | decrypted (hi : i = .decrypt) (out : List Byte) (m : Nat) (hl : out.length = s.ilen.toNat)
      (hc : s.ilen.toNat ≤ s.cap.bytes) (hm : removePadding out = .ok m) :
      Completed i s (succeed (BitVec.ofNat 32 m) (storeOutput out s))

theorem completed_encryptWith {chain : List Block → List Block} (hk : KeepsLength chain) (s : State) :
    Completed .encrypt s (encryptWith chain s) := by
  rcases encryptWith_cases chain s with ⟨-, h⟩ | ⟨-, -, h⟩ | ⟨hx, hc, h⟩ <;> rw [h]
  · exact .failed _ (by decide)
  · exact .failed _ (by decide)
  · refine .encrypted rfl _ ?_ hc hx
    have hmod := paddedLength_mod (inputLength s)
    have hl : (paddedMessage s).length % 16 = 0 := by simpa using hmod
    rw [blockBytes_length, hk, windows_length _ hl, paddedMessage_length]
    simp only [expectedLength] at hx
    omega

theorem completed_decryptWith {chain : List Block → List Block} (hk : KeepsLength chain) (s : State) :
    Completed .decrypt s (decryptWith chain s) := by
  rcases decryptWith_cases chain s with ⟨-, h⟩ | ⟨-, -, -, h⟩ | ⟨-, hm, hc, h⟩ <;> rw [h]
  · exact .failed _ (by decide)
  · exact .failed _ (by decide)
  · have hl : (blockBytes (chain (windows (ciphertext s)))).length = s.ilen.toNat := by
      rw [blockBytes_length, hk, windows_length _ (by simpa using hm), ciphertext_length]
      simp only [inputLength] at hm ⊢
      omega
    rcases finishDecrypt_cases (blockBytes (chain (windows (ciphertext s)))) s with ⟨-, h⟩ | ⟨m, hm, h⟩ <;> rw [h]
    · exact .badPadding rfl _ hl hc
    · exact .decrypted rfl _ m hl hc hm

/-- Every command answers a next state, and it is one of these. -/
theorem exec_completed (i : Instr) (s : State) : ∃ t, exec i s = .next t ∧ Completed i s t := by
  cases i with
  | initEcb =>
    simp only [exec, execInitEcb]
    split
    · exact ⟨_, rfl, .ecb rfl⟩
    · exact ⟨_, rfl, .failed _ (by decide)⟩
  | initCbc =>
    simp only [exec, execInitCbc]
    split
    · exact ⟨_, rfl, .cbc rfl⟩
    · exact ⟨_, rfl, .failed _ (by decide)⟩
  | encrypt =>
    simp only [exec, execEncrypt]
    split
    · exact ⟨_, rfl, .failed _ (by decide)⟩
    · exact ⟨_, rfl, completed_encryptWith (ecbEncrypt_length _) s⟩
    · exact ⟨_, rfl, completed_encryptWith (cbcEncrypt_length _ _) s⟩
  | decrypt =>
    simp only [exec, execDecrypt]
    split
    · exact ⟨_, rfl, .failed _ (by decide)⟩
    · exact ⟨_, rfl, completed_decryptWith (ecbDecrypt_length _) s⟩
    · exact ⟨_, rfl, completed_decryptWith (cbcDecrypt_length _ _) s⟩

/-- If a command answers `t`, then `t` is one of these. -/
theorem exec_cases {i : Instr} {s t : State} (h : exec i s = .next t) : Completed i s t := by
  obtain ⟨u, hu, hc⟩ := exec_completed i s
  rw [hu] at h
  cases h
  exact hc

/-- Complete answers a next state: the command's, or IllegalCommand. -/
theorem complete_cases (s : State) :
    (∃ i t, decode s.cmdr = .ok i ∧ complete s = .next t ∧ Completed i s t) ∨
    (∃ e, decode s.cmdr = .error e ∧ complete s = .next (fail .illegalCommand s)) := by
  unfold complete
  cases h : decode s.cmdr with
  | ok i =>
    obtain ⟨t, ht, hc⟩ := exec_completed i s
    exact .inl ⟨i, t, rfl, ht, hc⟩
  | error e => exact .inr ⟨e, rfl, rfl⟩

end Sys2Proof.Machine
end

