-- ==== Sys2Proof/Laws/Config.lean ====
section
/-! SUPPORT. Every value of Capacity is a legal CAP, and every legal CAP is a value of it (00_scope.md R7). -/

namespace Sys2Proof.Config

theorem Capacity.bytes_multiple (c : Capacity) : c.bytes % 16 = 0 := by simp [bytes]

theorem Capacity.le_bytes (c : Capacity) : 32 ≤ c.bytes := by simp only [bytes]; omega

theorem Capacity.bytes_le (c : Capacity) : c.bytes ≤ 2 ^ 30 := by
  have := c.index.isLt
  simp only [bytes]
  omega

theorem Capacity.exists_of_legal (n : Nat) (h : n % 16 = 0) (lo : 32 ≤ n) (hi : n ≤ 2 ^ 30) :
    ∃ c : Capacity, c.bytes = n :=
  ⟨⟨⟨n / 16 - 2, by omega⟩⟩, by simp only [bytes]; omega⟩

end Sys2Proof.Config
end

