-- ==== Sys2Proof/Laws/Field.lean ====
section
/-! SUPPORT. The field multiplier is linear in each operand, and what each block operation puts at each index. -/

namespace Sys2Proof.Machine

theorem multiplyLoop_acc (b : Byte) (n : Nat) (a p : Byte) : multiplyLoop b n a p = p ^^^ multiplyLoop b n a 0 := by
  induction n generalizing a p with
  | zero => simp [multiplyLoop]
  | succ n ih =>
    by_cases h : b.getLsbD (7 - n)
    · simp only [multiplyLoop, h, if_true]
      rw [ih _ (p ^^^ a), ih _ (0 ^^^ a)]
      simp [BitVec.xor_assoc]
    · simp only [multiplyLoop, h]
      exact ih _ p

/-- One step of the multiplier's loop as a sum. -/
theorem multiplyLoop_succ (b : Byte) (n : Nat) (a : Byte) :
    multiplyLoop b (n + 1) a 0 = (if b.getLsbD (7 - n) then a else 0) ^^^ multiplyLoop b n (xtime a) 0 := by
  simp only [multiplyLoop]
  rw [multiplyLoop_acc]
  simp

theorem multiplyLoop_xor (x y : Byte) (n : Nat) (a : Byte) :
    multiplyLoop (x ^^^ y) n a 0 = multiplyLoop x n a 0 ^^^ multiplyLoop y n a 0 := by
  induction n generalizing a with
  | zero => simp [multiplyLoop]
  | succ n ih =>
    simp only [multiplyLoop_succ, ih, BitVec.getLsbD_xor]
    generalize multiplyLoop x n (xtime a) 0 = u
    generalize multiplyLoop y n (xtime a) 0 = v
    cases x.getLsbD (7 - n) <;> cases y.getLsbD (7 - n) <;> simp
    · ac_rfl
    · ac_rfl
    · rw [show a ^^^ u ^^^ (a ^^^ v) = (a ^^^ a) ^^^ (u ^^^ v) by ac_rfl, BitVec.xor_self, BitVec.zero_xor]

/-- `multiply(a, b ^ c) = multiply(a, b) ^ multiply(a, c)`. -/
theorem multiply_xor (a x y : Byte) : multiply a (x ^^^ y) = multiply a x ^^^ multiply a y := multiplyLoop_xor x y 8 a

theorem xtime_xor (x y : Byte) : xtime (x ^^^ y) = xtime x ^^^ xtime y := by
  simp only [xtime, BitVec.getLsbD_xor]
  cases x.getLsbD 7 <;> cases y.getLsbD 7 <;> simp [BitVec.shiftLeft_xor_distrib]
  · ac_rfl
  · ac_rfl
  · rw [show x <<< 1 ^^^ 27#8 ^^^ (y <<< 1 ^^^ 27#8) = (x <<< 1 ^^^ y <<< 1) ^^^ (27#8 ^^^ 27#8) by ac_rfl]
    simp

theorem multiplyLoop_xor_left (b : Byte) (n : Nat) (x y : Byte) :
    multiplyLoop b n (x ^^^ y) 0 = multiplyLoop b n x 0 ^^^ multiplyLoop b n y 0 := by
  induction n generalizing x y with
  | zero => simp [multiplyLoop]
  | succ n ih =>
    simp only [multiplyLoop_succ, xtime_xor, ih]
    cases b.getLsbD (7 - n)
    · simp
    · simp
      ac_rfl

/-- `multiply(x ^ y, b) = multiply(x, b) ^ multiply(y, b)`. -/
theorem xor_multiply (x y b : Byte) : multiply (x ^^^ y) b = multiply x b ^^^ multiply y b := multiplyLoop_xor_left b 8 x y

theorem xorBlock_get (x y : Block) (k : Nat) (h : k < 16) : (xorBlock x y)[k] = x[k] ^^^ y[k] := by simp [xorBlock]

theorem xorBlock_cancel (x y : Block) : xorBlock (xorBlock x y) y = x := by
  apply Vector.ext
  intro k h
  simp [xorBlock_get]

theorem subBytes_get (s : Block) (k : Nat) (h : k < 16) : (subBytes s)[k] = subByte s[k] := by simp [subBytes]

theorem invSubBytes_get (s : Block) (k : Nat) (h : k < 16) : (invSubBytes s)[k] = invSubByte s[k] := by simp [invSubBytes]

theorem addRoundKey_get (s r : Block) (k : Nat) (h : k < 16) : (addRoundKey s r)[k] = s[k] ^^^ r[k] := xorBlock_get s r k h

/-- The four indices of a column (R124). -/
theorem column_index (k : Fin 16) :
    (4 * (k / 4)).val = 4 * (k.val / 4) ∧ (4 * (k / 4) + 1).val = 4 * (k.val / 4) + 1 ∧
    (4 * (k / 4) + 2).val = 4 * (k.val / 4) + 2 ∧ (4 * (k / 4) + 3).val = 4 * (k.val / 4) + 3 := by
  revert k
  decide

/-- Output byte i of column c is row i of the matrix applied to column c. -/
theorem mixWith_get (m : Coefficients) (s : Block) (c i : Nat) (hc : c < 4) (hi : i < 4) :
    (mixWith m s)[4 * c + i] = mixByte m[i] s[4 * c] s[4 * c + 1] s[4 * c + 2] s[4 * c + 3] := by
  have hd : (4 * c + i) / 4 = c := by omega
  have hm : (4 * c + i) % 4 = i := by omega
  obtain ⟨h0, h1, h2, h3⟩ := column_index ⟨4 * c + i, by omega⟩
  simp only [hd] at h0 h1 h2 h3
  simp [mixWith, Fin.ofNat, h0, h1, h2, h3, hm]

theorem rotate_index : ∀ r c : Fin 4,
    ((⟨r.val + 4 * c.val, by omega⟩ : Fin 16) + 4 * ((⟨r.val + 4 * c.val, by omega⟩ : Fin 16) % 4)).val =
      r.val + 4 * ((c.val + r.val) % 4) ∧
    ((⟨r.val + 4 * c.val, by omega⟩ : Fin 16) - 4 * ((⟨r.val + 4 * c.val, by omega⟩ : Fin 16) % 4)).val =
      r.val + 4 * ((c.val + 4 - r.val) % 4) := by decide

theorem shiftRows_get (s : Block) (r c : Nat) (hr : r < 4) (hc : c < 4) :
    (shiftRows s)[r + 4 * c] = s[r + 4 * ((c + r) % 4)] := by
  simp [shiftRows, (rotate_index ⟨r, hr⟩ ⟨c, hc⟩).1]

theorem invShiftRows_get (s : Block) (r c : Nat) (hr : r < 4) (hc : c < 4) :
    (invShiftRows s)[r + 4 * c] = s[r + 4 * ((c + 4 - r) % 4)] := by
  simp [invShiftRows, (rotate_index ⟨r, hr⟩ ⟨c, hc⟩).2]

end Sys2Proof.Machine
end

