-- ==== Sys2Proof/Laws/Memory.lean ====
section
/-! SUPPORT. The laws of buffers: a read after a write, the canonical form kept, and the extent of a multi-byte write. -/

namespace Sys2Proof.Machine

theorem Memory.read_write_same (m : Memory) (i : Nat) (b : Byte) : Memory.read (Memory.write m i b) i = some b := by
  induction m with
  | nil => simp [write, read]
  | cons c m ih =>
    obtain ⟨k, v⟩ := c
    simp only [write]
    split
    · simp [read]
    · split
      · simp [read]
      · rename_i h1 h2
        simp [read, Ne.symm h2, ih]

theorem Memory.read_write_other (m : Memory) {i j : Nat} (b : Byte) (h : j ≠ i) :
    Memory.read (Memory.write m i b) j = Memory.read m j := by
  induction m with
  | nil => simp [write, read, Ne.symm h]
  | cons c m ih =>
    obtain ⟨k, v⟩ := c
    simp only [write]
    split
    · simp [read, Ne.symm h]
    · split
      · rename_i h1 h2
        subst h2
        simp [read, Ne.symm h]
      · simp [read, ih]

@[simp] theorem Memory.read_write (m : Memory) (i j : Nat) (b : Byte) :
    Memory.read (Memory.write m i b) j = if j = i then some b else Memory.read m j := by
  split
  · rename_i h; subst h; exact read_write_same m j b
  · rename_i h; exact read_write_other m b h

theorem Memory.mem_write {m : Memory} {i : Nat} {b : Byte} {c : Host.Cell} (h : c ∈ Memory.write m i b) :
    c = (i, b) ∨ c ∈ m := by
  induction m with
  | nil => simpa [write] using h
  | cons d m ih =>
    obtain ⟨k, v⟩ := d
    simp only [write] at h
    split at h
    · simpa using h
    · split at h
      · rcases List.mem_cons.1 h with h | h
        · exact .inl h
        · exact .inr (List.mem_cons_of_mem _ h)
      · rcases List.mem_cons.1 h with h | h
        · exact .inr (h ▸ List.mem_cons_self)
        · exact (ih h).imp id (List.mem_cons_of_mem _)

theorem Memory.write_wf {m : Memory} (h : m.wf) (i : Nat) (b : Byte) : (Memory.write m i b).wf := by
  induction m with
  | nil => simp [write]
  | cons d m ih =>
    obtain ⟨k, v⟩ := d
    have hm := List.pairwise_cons.1 h
    simp only [write]
    split
    · rename_i hik
      refine List.pairwise_cons.2 ⟨fun c hc => ?_, h⟩
      rcases List.mem_cons.1 hc with rfl | hc
      · exact hik
      · exact Nat.lt_trans hik (hm.1 c hc)
    · split
      · rename_i hik
        subst hik
        exact List.pairwise_cons.2 ⟨hm.1, hm.2⟩
      · refine List.pairwise_cons.2 ⟨fun c hc => ?_, ih hm.2⟩
        rcases mem_write hc with rfl | hc
        · show k < i
          omega
        · exact hm.1 c hc

theorem Memory.write_below {m : Memory} {n i : Nat} (h : m.below n) (hi : i < n) (b : Byte) :
    (Memory.write m i b).below n := by
  intro c hc
  rcases mem_write hc with rfl | hc
  · exact hi
  · exact h c hc

@[simp] theorem Memory.read_nil (i : Nat) : Memory.read [] i = none := rfl

/-- What a multi-byte write does: the bytes from `i` upward, and nothing else. -/
theorem Memory.read_writeBytes (m : Memory) (i j : Nat) (bs : List Byte) :
    Memory.read (Memory.writeBytes m i bs) j =
      if i ≤ j ∧ j < i + bs.length then bs[j - i]? else Memory.read m j := by
  induction bs generalizing m i with
  | nil =>
    have h : ¬(i ≤ j ∧ j < i) := by omega
    simp [writeBytes, h]
  | cons b bs ih =>
    simp only [writeBytes, ih, List.length_cons, read_write]
    by_cases h1 : j = i
    · subst h1
      simp
    · by_cases h2 : i + 1 ≤ j ∧ j < i + 1 + bs.length
      · have h3 : i ≤ j ∧ j < i + (bs.length + 1) := by omega
        have h4 : j - i = (j - (i + 1)) + 1 := by omega
        rw [if_pos h2, if_pos h3, h4, List.getElem?_cons_succ]
      · have h3 : ¬(i ≤ j ∧ j < i + (bs.length + 1)) := by omega
        rw [if_neg h2, if_neg h3, if_neg h1]

theorem Memory.writeBytes_wf {m : Memory} (h : m.wf) (i : Nat) (bs : List Byte) : (Memory.writeBytes m i bs).wf := by
  induction bs generalizing m i with
  | nil => exact h
  | cons b bs ih => exact ih (write_wf h i b) (i + 1)

theorem Memory.writeBytes_below {m : Memory} {n i : Nat} {bs : List Byte} (h : m.below n) (hi : i + bs.length ≤ n) :
    (Memory.writeBytes m i bs).below n := by
  induction bs generalizing m i with
  | nil => exact h
  | cons b bs ih =>
    simp only [List.length_cons] at hi
    exact ih (write_below h (by omega) b) (by omega)

theorem reset_buffers_wf : State.reset.ibuf.wf ∧ State.reset.obuf.wf := ⟨List.Pairwise.nil, List.Pairwise.nil⟩

end Sys2Proof.Machine
end

