-- ==== Sys2Proof/Laws/HostPort.lean ====
section
/-! SUPPORT. What a host operation can do: one inversion lemma per operation of the host port. -/

namespace Sys2Proof.Machine

theorem inIbuf_iff (s : State) (a : Nat) : inIbuf s a = true ↔ 0x40000000 ≤ a ∧ a < 0x40000000 + s.cap.bytes := by
  unfold inIbuf
  rw [Bool.and_eq_true, decide_eq_true_iff, decide_eq_true_iff]

theorem inObuf_iff (s : State) (a : Nat) : inObuf s a = true ↔ 0x80000000 ≤ a ∧ a < 0x80000000 + s.cap.bytes := by
  unfold inObuf
  rw [Bool.and_eq_true, decide_eq_true_iff, decide_eq_true_iff]

/-- What a host write does (20_memory.md R55): nothing, an issue, one length register, or one IBUF byte. -/
inductive Written (a v : Word) (s : State) : State → Prop where
  | dropped (h : s.status.busy = true) : Written a v s s
  | issued (h : s.status.busy = false) (ha : a.toNat = 0) : Written a v s (issue v s)
  | klen (h : s.status.busy = false) (ha : a.toNat = 4) : Written a v s { s with klen := v }
  | vlen (h : s.status.busy = false) (ha : a.toNat = 5) : Written a v s { s with vlen := v }
  | ilen (h : s.status.busy = false) (ha : a.toNat = 6) : Written a v s { s with ilen := v }
  | xlen (h : s.status.busy = false) (ha : a.toNat = 7) : Written a v s { s with xlen := v }
  | ibuf (h : s.status.busy = false) (i : Nat) (hi : i < s.cap.bytes) (ha : a.toNat = 0x40000000 + i) :
      Written a v s (setIbufByte i v s)
  | ignored (h : s.status.busy = false) (ha : a.toNat ≠ 0) (hr : a.toNat < 4 ∨ 7 < a.toNat)
      (hi : ¬(0x40000000 ≤ a.toNat ∧ a.toNat < 0x40000000 + s.cap.bytes)) : Written a v s s

theorem hostWrite_written (a v : Word) (s : State) : Written a v s (hostWrite a v s) := by
  unfold hostWrite
  split
  · exact .dropped ‹_›
  · rename_i hb
    have hb : s.status.busy = false := by simpa using hb
    split
    · exact .issued hb ‹a.toNat = 0x00000000›
    · rename_i h0
      split
      · exact .klen hb ‹a.toNat = 0x00000004›
      · rename_i h4
        split
        · exact .vlen hb ‹a.toNat = 0x00000005›
        · rename_i h5
          split
          · exact .ilen hb ‹a.toNat = 0x00000006›
          · rename_i h6
            split
            · exact .xlen hb ‹a.toNat = 0x00000007›
            · rename_i h7
              split
              · rename_i hi
                have hi := (inIbuf_iff s _).1 hi
                exact .ibuf hb _ (by omega) (by omega)
              · rename_i hi
                exact .ignored hb h0 (by omega) (mt (inIbuf_iff s _).2 hi)

/-- A write while busy is dropped. -/
theorem hostWrite_busy (a v : Word) (s : State) (h : s.status.busy = true) : hostWrite a v s = s := by
  simp [hostWrite, h]

/-- A read in the IBUF window. -/
theorem hostReadValue_ibuf (s : State) (a : Word) (h : inIbuf s a.toNat = true) :
    hostReadValue s a = readIbuf s (a.toNat - 0x40000000) := by
  have hr := (inIbuf_iff s _).1 h
  unfold hostReadValue
  rw [if_neg (by omega), if_neg (by omega), if_neg (by omega), if_neg (by omega), if_neg (by omega), if_neg (by omega),
    if_pos h]

/-- A read in the OBUF window. -/
theorem hostReadValue_obuf (s : State) (a : Word) (h : inObuf s a.toNat = true) :
    hostReadValue s a = if s.status.busy then byteWord (freeByte s) else readObuf s (a.toNat - 0x80000000) := by
  have hr := (inObuf_iff s _).1 h
  have hc := s.cap.bytes_le
  have hi : ¬inIbuf s a.toNat = true := fun hi => by have := (inIbuf_iff s _).1 hi; omega
  have h2 : (a.toNat == 0x00000002 || a.toNat == 0x00000003 || a.toNat == 0x00000008) = false := by
    simp only [Bool.or_eq_false_iff, beq_eq_false_iff_ne]
    omega
  unfold hostReadValue
  rw [if_neg (by omega), if_neg (by omega), if_neg (by omega), if_neg (by omega), if_neg (by omega), if_neg (by omega),
    if_neg hi, h2, h]
  cases s.status.busy
  · rw [if_neg (by decide), if_neg (by decide), if_neg (by omega), if_neg (by omega), if_neg (by omega), if_pos rfl,
      if_neg (by decide)]
  · rw [if_neg (by decide), if_pos (by decide), if_pos rfl]

/-- `wait` is a read of STATUS that stays pending while BUSY = 1. -/
theorem hostWait_eq (s : State) :
    hostWait s =
      if s.status.busy then { hostRead 1 s with host := .wait :: s.host } else hostRead 1 s := by
  have h : (hostRead 0x00000001 s).hRdata.getLsbD 0 = s.status.busy := by
    simp only [hostRead_hRdata, hostReadValue]
    rw [if_pos (by decide)]
    rcases s.status with ⟨b, d, e⟩
    cases b <;> cases d <;> cases e <;> decide
  simp only [hostWait, h]
  rfl

end Sys2Proof.Machine
end

