-- ==== Sys2Proof/Laws/PerInstr.lean ====
section
/-! SUPPORT. Statements per instruction: the family Encoding. -/

namespace Sys2Proof.Laws.Encoding

/-- The command word of `i` is well formed, the host's entry reads `i` from it, and its upper 24 bits are zero
(30_encoding.md R80, R81). -/
def Statement (i : Instr) : Prop :=
  i.wellFormed = true ∧ decodeTableWord 32 (encode i).toNat = some i ∧ rsvdField (encode i) = 0

theorem initEcb : Statement .initEcb := by unfold Statement; decide

theorem initCbc : Statement .initCbc := by unfold Statement; decide

theorem encrypt : Statement .encrypt := by unfold Statement; decide

theorem decrypt : Statement .decrypt := by unfold Statement; decide

end Sys2Proof.Laws.Encoding
end

