-- ==== Sys2Proof/Laws/Safety.lean ====
section
/-! SUPPORT. The checks of each command as propositions. -/

namespace Sys2Proof.Machine

theorem checksPass_initEcb (s : State) : checksPass .initEcb s = true ↔ s.klen = 16#32 := isSixteen_iff s.klen

theorem checksPass_initCbc (s : State) : checksPass .initCbc s = true ↔ s.klen = 16#32 ∧ s.vlen = 16#32 := by
  simp only [checksPass, Bool.and_eq_true, isSixteen_iff]

theorem checksPass_encrypt (s : State) :
    checksPass .encrypt s = true ↔
      s.ctx ≠ .none ∧ s.xlen.toNat = paddedLength s.ilen.toNat ∧ s.xlen.toNat ≤ s.cap.bytes := by
  simp only [checksPass, Bool.and_eq_true, bne_iff_ne, beq_iff_eq, decide_eq_true_iff, and_assoc]
  exact Iff.rfl

theorem checksPass_decrypt (s : State) :
    checksPass .decrypt s = true ↔
      s.ctx ≠ .none ∧ s.ilen.toNat ≠ 0 ∧ s.ilen.toNat % 16 = 0 ∧ s.ilen.toNat ≤ s.cap.bytes := by
  simp only [checksPass, Bool.and_eq_true, bne_iff_ne, beq_iff_eq, decide_eq_true_iff, and_assoc]
  exact Iff.rfl

end Sys2Proof.Machine
end

