-- ==== Sys2Proof/Laws/Step.lean ====
section
/-! SUPPORT. What a step can be: one inversion lemma, from which the invariants follow. -/

namespace Sys2Proof.Machine

/-- What one step does: only a turn is used up, or the core completes its command, or the host's oldest operation runs. -/
inductive Stepped (s : State) : State → Prop where
  | idle (ts : List Agent) : Stepped s { s with turns := ts }
  | core (ts : List Agent) (t : State) (hb : s.status.busy = true) (h : complete { s with turns := ts } = .next t) :
      Stepped s t
  | host (op : HostOp) (rest : List HostOp) (ts : List Agent) (h : s.host = op :: rest) :
      Stepped s (hostStep op { s with turns := ts, host := rest })

theorem complete_next (s : State) : ∃ t, complete s = .next t := by
  rcases complete_cases s with ⟨_, t, _, h, _⟩ | ⟨_, _, h⟩
  · exact ⟨t, h⟩
  · exact ⟨_, h⟩

theorem coreTurn_stepped (s : State) (ts : List Agent) : ∃ t, coreTurn { s with turns := ts } = .next t ∧ Stepped s t := by
  unfold coreTurn
  split
  · obtain ⟨t, h⟩ := complete_next { s with turns := ts }
    exact ⟨t, h, .core ts t ‹_› h⟩
  · exact ⟨_, rfl, .idle ts⟩

theorem hostTurn_stepped (s : State) (ts : List Agent) : ∃ t, hostTurn { s with turns := ts } = .next t ∧ Stepped s t := by
  unfold hostTurn
  split
  · exact ⟨_, rfl, .idle ts⟩
  · rename_i op rest h
    exact ⟨_, rfl, .host op rest ts h⟩

/-- A step always answers a next state, and it is one of these. -/
theorem step_stepped (s : State) : ∃ t, step s = .next t ∧ Stepped s t := by
  unfold step advance
  split
  · exact coreTurn_stepped s _
  · exact hostTurn_stepped s _
  · split
    · exact coreTurn_stepped s s.turns
    · exact hostTurn_stepped s s.turns

theorem step_cases {s t : State} (h : step s = .next t) : Stepped s t := by
  obtain ⟨u, hu, hc⟩ := step_stepped s
  rw [hu] at h
  cases h
  exact hc

end Sys2Proof.Machine
end

