-- ==== Sys2Proof/Tests/Slice0.lean ====
section
/-! SUPPORT. The model's own tests: expected values from the spec (95_test_vectors.md unless said otherwise), and for every
obligation with hypotheses concrete values that meet them. -/

namespace Sys2Proof.Tests

-- One theorem after another: each thread of the elaborator reserves its own stack.
set_option Elab.async false

open Sys2Proof Sys2Proof.Machine

/-! ## Helpers -/

/-- A block from its 32 hex digits read as a number: byte 0 is the first pair (R9). -/
def blk (v : Nat) : Block := Vector.ofFn fun k => BitVec.ofNat 8 (v / 256 ^ (15 - k.val))

/-- The key of the source's vectors. -/
def key0 : Block := blk 0x2b7e151628aed2a6abf7158809cf4f3c

/-- The IV of the mode vectors. -/
def iv0 : Block := blk 0x000102030405060708090a0b0c0d0e0f

/-- IBUF with `n` bytes loaded from index 0: the hex string read as the number `v`. -/
def loaded (n v : Nat) : Memory := Memory.writeBytes [] 0 (hexBytes n v)

/-- A state with an ECB context, a loaded input and the two lengths. -/
def ecbState (n v ilen xlen : Nat) : State :=
  { State.reset with key := key0, ctx := .ecb, ibuf := loaded n v, ilen := BitVec.ofNat 32 ilen, xlen := BitVec.ofNat 32 xlen }

/-- The same with a CBC context. -/
def cbcState (n v ilen xlen : Nat) : State := { ecbState n v ilen xlen with ctx := .cbc, iv := iv0 }

/-- A state with key and IV material loaded and the two lengths. -/
def initState (klen vlen : Nat) : State :=
  { State.reset with
    ibuf := loaded 32 0x2b7e151628aed2a6abf7158809cf4f3c000102030405060708090a0b0c0d0e0f
    klen := BitVec.ofNat 32 klen
    vlen := BitVec.ofNat 32 vlen }

/-- A state with the word `w` in flight. -/
def inFlight (w : Nat) (s : State) : State := issue (BitVec.ofNat 32 w) s

/-- The host's view after a command. -/
def viewOf (o : Host.Outcome State Fault Refusal) : Option HostView := (nextOf o).map hostView

/-- The view of a success with `n` output bytes. -/
def okView (ctx : Ctx) (n v : Nat) : Option HostView :=
  some { status := ⟨false, true, false⟩, errcode := .ok, olen := BitVec.ofNat 32 n, ctx := ctx, output := (hexBytes n v).map some }

/-- The view of a failure. -/
def failView (ctx : Ctx) (k : ErrorKind) : Option HostView :=
  some { status := ⟨false, true, true⟩, errcode := .failed k, olen := 0, ctx := ctx, output := [] }

/-- A command that shows a view answered with a state that has it. -/
theorem answer_of_view {i : Instr} {s : State} {v : HostView} (h : viewOf (exec i s) = some v) :
    ∃ t, exec i s = .next t ∧ hostView t = v := by
  obtain ⟨t, ht, -⟩ := exec_completed i s
  rw [ht] at h
  exact ⟨t, ht, Option.some.inj h⟩

/-! ## WellFormed: each check refuses an ill-formed term -/

theorem test_rsvd_refused : (CommandWord.mk 0x000001 0x03).wellFormed = false := by decide
theorem test_opcode0_refused : (CommandWord.mk 0 0x00).wellFormed = false := by decide
theorem test_opcode5_refused : (CommandWord.mk 0 0x05).wellFormed = false := by decide
theorem test_opcode4_accepted : (CommandWord.mk 0 0x04).wellFormed = true := by decide

/-! ## Decode: words written out from R81 -/

theorem test_decode_initEcb : decode 0b00000000000000000000000000000001#32 = .ok .initEcb := by decide
theorem test_decode_initCbc : decode 0b00000000000000000000000000000010#32 = .ok .initCbc := by decide
theorem test_decode_encrypt : decode 0b00000000000000000000000000000011#32 = .ok .encrypt := by decide
theorem test_decode_decrypt : decode 0b00000000000000000000000000000100#32 = .ok .decrypt := by decide
theorem test_decode_zero : decode 0x00000000 = .error .unknownOpcode := by decide
theorem test_decode_five : decode 0x00000005 = .error .unknownOpcode := by decide
theorem test_decode_rsvd : decode 0x00000103 = .error .reservedField := by decide
theorem test_decode_ones : decode 0xFFFFFFFF = .error .reservedField := by decide
theorem test_table_word : decodeTableWord 32 0x00000003 = some .encrypt := by decide
theorem test_place : step (State.reset.withFetchWord 32 1) = exec .initEcb (issue 1 State.reset) := by rfl

/-! ## Units -/

/-- Section 3. -/
theorem test_xtime : xtime 0x80 = 0x1B ∧ xtime 0x7F = 0xFE ∧ xtime 0x8D = 0x01 := by decide
/-- Section 3. -/
theorem test_multiply : multiply 0x57 0x83 = 0xC1 ∧ multiply 0x09 0x80 = 0xEC ∧ multiply 0x53 0xCA = 0x01 := by decide
/-- Section 4. -/
theorem test_tables : subByte 0x53 = 0xED ∧ subByte 0xFF = 0x16 ∧ invSubByte 0x00 = 0x52 ∧ invSubByte 0xC9 = 0x12 ∧
    rcon 8 = 0x1B ∧ rcon 9 = 0x36 := by decide
/-- Section 4, the row checks of SBOX. -/
theorem test_sbox_rows : (List.range 16).map (fun r => (List.range 16).foldl
    (fun x c => x ^^^ subByte (BitVec.ofNat 8 (16 * r + c))) 0) = hexBytes 16 0xa916c54e5eee4cc0d6369357a850bd69 := by
  decide +kernel
/-- Section 4, the row checks of INV_SBOX. -/
theorem test_invSbox_rows : (List.range 16).map (fun r => (List.range 16).foldl
    (fun x c => x ^^^ invSubByte (BitVec.ofNat 8 (16 * r + c))) 0) = hexBytes 16 0xe36dfa52841e0cb6508a06f6de087b81 := by
  decide +kernel
/-- Section 6. -/
theorem test_shiftRows :
    shiftRows (blk 0x000102030405060708090a0b0c0d0e0f) = blk 0x00050a0f04090e03080d02070c01060b := by decide
/-- Section 6. -/
theorem test_invShiftRows :
    invShiftRows (blk 0x000102030405060708090a0b0c0d0e0f) = blk 0x000d0a0704010e0b0805020f0c090603 := by decide
/-- Section 6. -/
theorem test_mixColumns :
    mixColumns (blk 0xd4bf5d30e0b452aeb84111f11e2798e5) = blk 0x046681e5e0cb199a48f8d37a2806264c := by decide
/-- Section 6. -/
theorem test_invMixColumns :
    invMixColumns (blk 0x046681e5e0cb199a48f8d37a2806264c) = blk 0xd4bf5d30e0b452aeb84111f11e2798e5 := by decide
/-- Section 2, V1. -/
theorem test_expandKey : (expandKey key0)[1] = blk 0xa0fafe1788542cb123a339392a6c7605 ∧
    (expandKey key0)[10] = blk 0xd014f9a8c9ee2589e13f0cc8b6630ca6 := by decide +kernel
/-- Section 2, V2. -/
theorem test_encryptBlock : encryptBlock (blk 0x3243f6a8885a308d313198a2e0370734) (expandKey key0) =
    blk 0x3925841d02dc09fbdc118597196a0b32 := by decide +kernel
/-- Section 6. -/
theorem test_decryptBlock : decryptBlock (blk 0x3243f6a8885a308d313198a2e0370734) (expandKey key0) =
    blk 0xcb13389c1d59c1d50d11f6b90c38ce7f := by decide +kernel
/-- Section 7. -/
theorem test_paddedLength : paddedLength 0 = 16 ∧ paddedLength 15 = 16 ∧ paddedLength 16 = 32 ∧
    paddedLength 0xFFFFFFEF = 0xFFFFFFF0 ∧ paddedLength 0xFFFFFFF0 = 0x100000000 := by decide
/-- Section 7. -/
theorem test_removePadding :
    removePadding (hexBytes 16 0x10101010101010101010101010101010) = .ok 0 ∧
    removePadding (hexBytes 16 0x0202) = .ok 14 ∧
    removePadding (hexBytes 16 0x030203) = .error .invalidPadding ∧
    removePadding (hexBytes 16 0) = .error .invalidPadding ∧
    removePadding (hexBytes 17 0x1111111111111111111111111111111111) = .error .invalidPadding := by
  refine ⟨?_, ?_, ?_, ?_, ?_⟩ <;> rfl

/-! ## Commands -/

/-- R163, worked example. -/
theorem test_initEcb : viewOf (exec .initEcb (initState 16 0)) = okView .ecb 0 0 ∧
    (nextOf (exec .initEcb (initState 16 0))).map (fun t => (t.key, t.iv)) = some (key0, zeroBlock) := by decide +kernel
/-- Section 9: INIT_ECB with KLEN 15 fails and the context stays. -/
theorem test_initEcb_fails : viewOf (exec .initEcb { ecbState 0 0 0 0 with klen := 15 }) = failView .ecb .contractViolation ∧
    (nextOf (exec .initEcb { ecbState 0 0 0 0 with klen := 15 })).map (·.key) = some key0 := by decide +kernel
/-- R164, worked example. -/
theorem test_initCbc : viewOf (exec .initCbc (initState 16 16)) = okView .cbc 0 0 ∧
    (nextOf (exec .initCbc (initState 16 16))).map (fun t => (t.key, t.iv)) = some (key0, iv0) := by decide +kernel
/-- Section 9: INIT_CBC with KLEN 32, VLEN 16. -/
theorem test_initCbc_fails : viewOf (exec .initCbc (initState 32 16)) = failView .none .contractViolation := by decide +kernel
/-- Section 8, E3. -/
theorem test_encrypt_ecb : viewOf (exec .encrypt (ecbState 15 0x000102030405060708090a0b0c0d0e 15 16)) =
    okView .ecb 16 0xfa67351c1aaaebd4155455b3c34681e9 := by decide +kernel
/-- Section 8, C5. -/
theorem test_encrypt_cbc : viewOf (exec .encrypt (cbcState 17 0x6bc1bee22e409f96e93d7e117393172aae 17 32)) =
    okView .cbc 32 0x7649abac8119b246cee98e9b12e9197d34d2d260173113008c28112c77668c86 := by decide +kernel
/-- Section 8, T1. -/
theorem test_decrypt_ecb_tampered :
    viewOf (exec .decrypt (ecbState 16 0xfa67351c1aaaebd4155455b3c34681e8 16 0)) = failView .ecb .invalidPadding := by
  decide +kernel
/-- Section 8, C7. -/
theorem test_decrypt_cbc :
    viewOf (exec .decrypt (cbcState 32 0x75973edd5d1ce94cc1e0370da79a0c4a94bd48774ca1cfe7844ab0691dbd2075 32 0)) =
      okView .cbc 20 0x636f6e73742d6165732068617264776172652121 := by decide +kernel

/-! ## Lifecycle and host port -/

/-- Section 9: the word 0x00000103 completes with IllegalCommand. -/
theorem test_illegal_word : viewOf (step (inFlight 0x103 (ecbState 0 0 0 0))) = failView .ecb .illegalCommand := by decide +kernel
/-- Program P4: a write to CMD and a write to IBUF while BUSY = 1 are dropped. -/
theorem test_busy_write_dropped :
    hostWrite 0x00000000 4 (inFlight 3 State.reset) = inFlight 3 State.reset ∧
    hostWrite 0x40000000 0xff (inFlight 3 State.reset) = inFlight 3 State.reset := by decide
/-- Program P4: STATUS reads 1 while a command is in flight and 6 after a failure (R24). -/
theorem test_read_status : hostReadValue (inFlight 3 State.reset) 1 = 1 ∧
    (nextOf (step (inFlight 3 State.reset))).map (hostReadValue · 1) = some 6 := by decide +kernel
/-- R54: only bits 7:0 of a write to IBUF land, and the byte reads zero-extended. -/
theorem test_ibuf_byte : hostReadValue (hostWrite 0x40000FFF 0xFFFFFF80 State.reset) 0x40000FFF = 0x80 := by decide +kernel
/-- R86 and R87: the expansion of `ecb.new` ends in the length, the command and the wait. -/
theorem test_script : (Stmt.ops (.ecbNew (hexBytes 16 0x2b7e151628aed2a6abf7158809cf4f3c))).drop 15 =
    [.write 0x4000000f 0x3c, .write 4 16, .write 0 1, .wait] := by decide +kernel

/-- R30 and U3: a never-written byte is the same byte to the next command. -/
theorem test_unwritten_byte_kept (k : ErrorKind) (j : Nat) :
    ibufByte (issue 4 (fail k State.reset)) j = ibufByte State.reset j := rfl

/-! ## Witnesses: for each obligation with hypotheses, values that meet them -/

theorem witness_EncodeAndDecodeAgree : decode (CommandWord.mk 0 4).toWord = .ok .decrypt := by decide

theorem witness_IllegalWordFailsAndChangesNothingElse :
    (inFlight 0x100 State.reset).cmdr.toNat / 256 ≠ 0 ∧ (inFlight 0 State.reset).cmdr.toNat % 256 = 0 ∧
    4 < (inFlight 5 State.reset).cmdr.toNat % 256 := by decide

theorem witness_StepRunsTheDecodedCommand :
    ((inFlight 3 State.reset).status.busy = true ∧ decode (inFlight 3 State.reset).cmdr = .ok .encrypt ∧
      (inFlight 3 State.reset).turns = []) ∧
    (∃ s : State, s.status.busy = true ∧ decode s.cmdr = .ok .encrypt ∧ s.turns = .core :: []) ∧
    ((inFlight 0 State.reset).status.busy = true ∧ decode (inFlight 0 State.reset).cmdr = .error .unknownOpcode ∧
      (inFlight 0 State.reset).turns = []) ∧
    (∃ s : State, s.status.busy = true ∧ decode s.cmdr = .error .reservedField ∧ s.turns = .core :: []) ∧
    (∃ s : State, s.status.busy = false ∧ s.turns = .core :: []) :=
  ⟨by decide, ⟨{ inFlight 3 State.reset with turns := [.core] }, by decide⟩, by decide,
    ⟨{ inFlight 0x103 State.reset with turns := [.core] }, by decide⟩, ⟨{ State.reset with turns := [.core] }, by decide⟩⟩

theorem witness_StepRunsTheHostsOldestOperation :
    (∃ s : State, s.host = .read 1 :: [] ∧ s.turns = .host :: []) ∧
    (∃ s : State, s.host = .read 1 :: [] ∧ s.turns = [] ∧ s.status.busy = false) ∧
    (State.reset.host = [] ∧ State.reset.turns = [] ∧ State.reset.status.busy = false) :=
  ⟨⟨{ State.reset with host := [.read 1], turns := [.host] }, by decide⟩, ⟨{ State.reset with host := [.read 1] }, by decide⟩,
    by decide⟩

theorem witness_WriteToCmdIssues : State.reset.status.busy = false ∧ 4095 < State.reset.cap.bytes ∧
    (inFlight 3 State.reset).status.busy = true := by decide

theorem witness_BusyAlwaysEnds : (inFlight 3 State.reset).status.busy = true := by decide

theorem witness_ResetAbortsTheCommandInFlight : (inFlight 3 State.reset).status.busy = true ∧
    ∃ t, step { inFlight 3 State.reset with host := [.reset], turns := [.host] } = .next t ∧ t.status.busy = false ∧
      t.status.done = false := ⟨by decide, _, rfl, by decide⟩

theorem witness_HostWriteReachesOneLocation :
    (inFlight 3 State.reset).status.busy = true ∧ State.reset.status.busy = false ∧ (4 : Word).toNat ≠ 0 ∧
    (4 ≤ (7 : Word).toNat ∧ (7 : Word).toNat ≤ 7) ∧
    (0x40000000 ≤ (0x40000FFF : Word).toNat ∧ (0x40000FFF : Word).toNat < 0x40000000 + State.reset.cap.bytes) ∧
    (5 : Word) ≠ 4 ∧ ¬(4 ≤ (8 : Word).toNat ∧ (8 : Word).toNat ≤ 7) ∧
    ¬(0x40000000 ≤ (0x40001000 : Word).toNat ∧ (0x40001000 : Word).toNat < 0x40000000 + State.reset.cap.bytes) := by
  decide

theorem witness_HostReadReturnsTheLocation :
    (∃ s : State, 4095 < s.cap.bytes ∧ Memory.read s.ibuf 4095 = some 0x5A) ∧
    (∃ s : State, s.status.busy = false ∧ 4095 < s.cap.bytes ∧ 4095 < s.olen.toNat ∧ Memory.read s.obuf 4095 = some 0x5A) ∧
    (4095 < State.reset.cap.bytes ∧ Memory.read State.reset.ibuf 4095 = none ∧ State.reset.olen.toNat ≤ 0 ∧
      (inFlight 3 State.reset).status.busy = true) :=
  ⟨⟨{ State.reset with ibuf := [(4095, 0x5A)] }, by decide⟩,
    ⟨{ State.reset with obuf := [(4095, 0x5A)], olen := 4096 }, by decide⟩, by decide⟩

/-- An address in neither the register window's defined part nor a buffer's window, for CAP = 4096. -/
abbrev Outside (a : Word) : Prop :=
  8 < a.toNat ∧ ¬(0x40000000 ≤ a.toNat ∧ a.toNat < 0x40000000 + State.reset.cap.bytes) ∧
    ¬(0x80000000 ≤ a.toNat ∧ a.toNat < 0x80000000 + State.reset.cap.bytes)

theorem witness_ReservedAndUnmappedAreInert : Outside 0x9 ∧ Outside 0xF ∧ Outside 0x3FFFFFFF ∧ Outside 0x40001000 ∧
    Outside 0x7FFFFFFF ∧ Outside 0x80001000 ∧ Outside 0xFFFFFFFF := by
  refine ⟨?_, ?_, ?_, ?_, ?_, ?_, ?_⟩ <;> decide

theorem witness_ReadsRevealNoKeyAndNoResidue :
    (∃ s : State, s.olen = 1 ∧ ∀ i, i < s.olen.toNat → Memory.read [(0, 7), (1, 9)] i = Memory.read s.obuf i) ∧
    (inFlight 3 State.reset).status.busy = true :=
  ⟨⟨{ State.reset with olen := 1, obuf := [(0, 7), (1, 8)] }, by decide⟩, by decide⟩

theorem witness_PinsMirrorStatus :
    (∃ t, step (inFlight 3 State.reset) = .next t ∧ pinDone (inFlight 3 State.reset) = false ∧ pinDone t = true ∧
      pinErr (inFlight 3 State.reset) = false ∧ pinErr t = true) ∧
    (∃ s t, CoreInv s ∧ step s = .next t ∧ pinDone s = true ∧ pinDone t = false ∧ pinErr s = true ∧ pinErr t = false) :=
  ⟨⟨_, rfl, by decide +kernel⟩, { fail .noContext State.reset with host := [.write 0 3] }, _,
    by constructor <;> decide +kernel, rfl, by decide +kernel⟩

theorem witness_HostCannotDisturbACommandInFlight : (inFlight 3 State.reset).status.busy = true ∧
    HostOp.reset ∉ [HostOp.write 0 4, HostOp.wait, HostOp.read 8] := by decide

theorem witness_WaitPollsStatus : State.reset.status.busy = false ∧ (inFlight 3 State.reset).status.busy = true := by decide

theorem witness_LoadPlacesTheBytes : State.reset.status.busy = false ∧
    4094 + ([1, 2] : List Byte).length ≤ State.reset.cap.bytes := by decide

theorem witness_InitEcbConstructsTheContext :
    (initState 16 0).klen = 16 ∧ (initState 15 0).klen ≠ 16 ∧ (initState 17 0).klen ≠ 16 := by decide +kernel

theorem witness_InitCbcConstructsTheContext : ((initState 16 16).klen = 16 ∧ (initState 16 16).vlen = 16) ∧
    (initState 32 16).klen ≠ 16 ∧ (initState 16 0).vlen ≠ 16 ∧
    (∃ t, exec .encrypt (cbcState 0 0 0 16) = .next t) :=
  ⟨by decide +kernel, by decide +kernel, by decide +kernel, _, rfl⟩

theorem witness_InitFrame : (∃ t, exec .initEcb (initState 16 0) = .next t) ∧ (∃ t, exec .initCbc (initState 16 16) = .next t) :=
  ⟨(exec_completed .initEcb _).imp fun _ h => h.1, (exec_completed .initCbc _).imp fun _ h => h.1⟩

theorem witness_EncryptReportsTheFirstFailingCheck :
    State.reset.ctx = .none ∧
    ((ecbState 0 0 16 16).ctx ≠ .none ∧ (ecbState 0 0 16 16).xlen.toNat ≠ paddedLength (ecbState 0 0 16 16).ilen.toNat) ∧
    ((ecbState 0 0 4096 4112).ctx ≠ .none ∧
      (ecbState 0 0 4096 4112).xlen.toNat = paddedLength (ecbState 0 0 4096 4112).ilen.toNat ∧
      (ecbState 0 0 4096 4112).cap.bytes < (ecbState 0 0 4096 4112).xlen.toNat) := by decide +kernel

theorem witness_DecryptReportsTheFirstFailingCheck :
    State.reset.ctx = .none ∧
    ((ecbState 0 0 0 0).ctx ≠ .none ∧ (ecbState 0 0 0 0).ilen.toNat = 0) ∧
    ((ecbState 0 0 4097 0).ctx ≠ .none ∧ (ecbState 0 0 4097 0).ilen.toNat % 16 ≠ 0) ∧
    ((ecbState 0 0 4112 0).ctx ≠ .none ∧ (ecbState 0 0 4112 0).ilen.toNat ≠ 0 ∧
      (ecbState 0 0 4112 0).ilen.toNat % 16 = 0 ∧ (ecbState 0 0 4112 0).cap.bytes < (ecbState 0 0 4112 0).ilen.toNat) := by
  decide +kernel

theorem witness_LengthsNearTheTopNeverMatch :
    (ecbState 0 0 0xFFFFFFF0 0).ctx ≠ .none ∧ 0xFFFFFFF0 ≤ (ecbState 0 0 0xFFFFFFF0 0).ilen.toNat := by decide +kernel

theorem witness_EcbEncryptsEveryBlock :
    (ecbState 0 0 4095 4096).ctx = .ecb ∧ (ecbState 0 0 4095 4096).xlen.toNat = paddedLength (ecbState 0 0 4095 4096).ilen.toNat ∧
    (ecbState 0 0 4095 4096).xlen.toNat ≤ (ecbState 0 0 4095 4096).cap.bytes := by decide +kernel

theorem witness_CbcEncryptChainsTheCiphertext : ∃ p : Nat → Block,
    ((cbcState 0 0 0 16).ctx = .cbc ∧ (cbcState 0 0 0 16).xlen.toNat = paddedLength (cbcState 0 0 0 16).ilen.toNat ∧
      (cbcState 0 0 0 16).xlen.toNat ≤ (cbcState 0 0 0 16).cap.bytes) ∧
    (∀ i, p i = Vector.ofFn fun j : Fin 16 =>
      if 16 * i + j < (cbcState 0 0 0 16).ilen.toNat then ibufByte (cbcState 0 0 0 16) (16 * i + j)
      else BitVec.ofNat 8 (padLength (cbcState 0 0 0 16).ilen.toNat)) :=
  ⟨_, by decide +kernel, fun _ => rfl⟩

/-- Vector E3: the ciphertext's one block decrypts to bytes ending in 01. -/
def e3 : State := ecbState 16 0xfa67351c1aaaebd4155455b3c34681e9 16 0

theorem witness_EcbDecryptsEveryBlock : ∃ c p : Nat → Block,
    (e3.ctx = .ecb ∧ e3.ilen.toNat ≠ 0 ∧ e3.ilen.toNat % 16 = 0 ∧ e3.ilen.toNat ≤ e3.cap.bytes) ∧
    (∀ i, c i = Vector.ofFn fun j : Fin 16 => ibufByte e3 (16 * i + j)) ∧
    (∀ i, p i = decryptBlock (c i) (expandKey e3.key)) ∧
    ∀ k : Fin 16, 16 - (0x01 : Byte).toNat ≤ k.val → (p (e3.ilen.toNat / 16 - 1))[k] = 0x01 :=
  ⟨fun i => Vector.ofFn fun j : Fin 16 => ibufByte e3 (16 * i + j),
    fun i => decryptBlock (Vector.ofFn fun j : Fin 16 => ibufByte e3 (16 * i + j)) (expandKey e3.key),
    by decide +kernel, fun _ => rfl, fun _ => rfl, by decide +kernel⟩

/-- Vector C1: the empty message under CBC; the one block decrypts to sixteen 10. -/
def c1 : State := cbcState 16 0xc84af0b613435d5d9182801a9bd9320b 16 0

/-- Block i of the ciphertext of C1. -/
def c1Block (i : Nat) : Block := Vector.ofFn fun j : Fin 16 => ibufByte c1 (16 * i + j)

/-- Block i of the padded plaintext of C1. -/
def c1Plain : Nat → Block
  | 0 => xorBlock (decryptBlock (c1Block 0) (expandKey c1.key)) c1.iv
  | i + 1 => xorBlock (decryptBlock (c1Block (i + 1)) (expandKey c1.key)) (c1Block i)

theorem witness_CbcDecryptChainsTheCiphertext :
    (c1.ctx = .cbc ∧ c1.ilen.toNat ≠ 0 ∧ c1.ilen.toNat % 16 = 0 ∧ c1.ilen.toNat ≤ c1.cap.bytes) ∧
    (∀ i, c1Block i = Vector.ofFn fun j : Fin 16 => ibufByte c1 (16 * i + j)) ∧
    c1Plain 0 = xorBlock (decryptBlock (c1Block 0) (expandKey c1.key)) c1.iv ∧
    (∀ i, c1Plain (i + 1) = xorBlock (decryptBlock (c1Block (i + 1)) (expandKey c1.key)) (c1Block i)) ∧
    ∀ k : Fin 16, 16 - (0x10 : Byte).toNat ≤ k.val → (c1Plain (c1.ilen.toNat / 16 - 1))[k] = 0x10 :=
  ⟨by decide +kernel, fun _ => rfl, rfl, fun _ => rfl, by decide +kernel⟩

theorem witness_DecryptChecksTheTrailer : (ecbState 0 0 4096 0).ctx ≠ .none ∧ (ecbState 0 0 4096 0).ilen.toNat ≠ 0 ∧
    (ecbState 0 0 4096 0).ilen.toNat % 16 = 0 ∧ (ecbState 0 0 4096 0).ilen.toNat ≤ (ecbState 0 0 4096 0).cap.bytes := by
  decide +kernel

/-- Vector E1: the empty message under ECB. -/
def e1 : State := ecbState 0 0 0 16

theorem witness_MessageFrame : (∃ t, exec .encrypt e1 = .next t ∧ expectedLength e1 ≤ 16) ∧
    (∃ t, exec .decrypt e3 = .next t ∧ inputLength e3 ≤ 16) ∧
    (∃ t, exec .encrypt State.reset = .next t ∧ t.status.err = true ∧ t.errcode ≠ .failed .invalidPadding) :=
  ⟨⟨_, rfl, by decide +kernel⟩, ⟨_, rfl, by decide +kernel⟩, ⟨_, rfl, by decide +kernel⟩⟩

theorem witness_ResultLengths : (∃ t, exec .encrypt e1 = .next t ∧ t.status.err = false) ∧
    (∃ s t, exec .decrypt s = .next t ∧ t.status.err = false) := by
  refine ⟨⟨_, rfl, by decide +kernel⟩, ?_⟩
  obtain ⟨t, ht, hv⟩ := answer_of_view test_decrypt_cbc
  exact ⟨_, t, ht, congrArg (·.status.err) hv⟩

/-- Vector T1: the tampered ciphertext. -/
def t1 : State := ecbState 16 0xfa67351c1aaaebd4155455b3c34681e8 16 0

theorem complete_of_decode {s : State} {i : Instr} (h : decode s.cmdr = .ok i) : complete s = exec i s := by
  simp only [complete, h]

theorem complete_of_error {s : State} {e : DecodeError} (h : decode s.cmdr = .error e) :
    complete s = .next (fail .illegalCommand s) := by
  simp only [complete, h, completeIllegal]

theorem witness_ErrorsArePrecise :
    (∃ t, complete (inFlight 4 t1) = .next t ∧ t.errcode = .failed .invalidPadding) ∧
    (∃ t, complete (inFlight 0 State.reset) = .next t ∧ t.errcode = .failed .illegalCommand ∧
      ErrorKind.illegalCommand ≠ .invalidPadding) :=
  ⟨⟨_, (complete_of_decode (i := .decrypt) (by decide +kernel)).trans rfl, by decide +kernel⟩,
    ⟨_, complete_of_error (e := .unknownOpcode) (by decide +kernel), by decide +kernel⟩⟩

theorem witness_FailedCommandFailsAgain :
    (∃ t, exec .decrypt t1 = .next t ∧ t.errcode = .failed .invalidPadding) ∧
    (∃ t, exec .encrypt (ecbState 0 0 16 16) = .next t ∧ t.errcode = .failed .lengthMismatch) := by
  refine ⟨?_, _, rfl, by decide +kernel⟩
  obtain ⟨t, ht, hv⟩ := answer_of_view (s := t1) test_decrypt_ecb_tampered
  exact ⟨t, ht, congrArg (·.errcode) hv⟩

theorem witness_DecryptUndoesEncrypt : ∃ s t u : State, exec .encrypt s = .next t ∧ t.status.err = false ∧
    u.ctx = s.ctx ∧ u.key = s.key ∧ u.iv = s.iv ∧ u.cap = s.cap ∧ u.ilen = t.olen ∧
    ∀ i, i < t.olen.toNat → Memory.read u.ibuf i = Memory.read t.obuf i :=
  ⟨e1, _, { e1 with ibuf := loaded 16 0xa254be88e037ddd9d79fb6411c3f9df8, ilen := 16 }, rfl, by decide +kernel, rfl, rfl, rfl, rfl,
    by decide +kernel, by decide +kernel⟩

/-- Two states that agree on what a command depends on. -/
structure SameOperands (i : Instr) (s u : State) : Prop where
  registers : s.ctx = u.ctx ∧ s.key = u.key ∧ s.iv = u.iv ∧ s.klen = u.klen ∧ s.vlen = u.vlen ∧ s.ilen = u.ilen ∧
    s.xlen = u.xlen ∧ s.cap = u.cap
  input : checksPass i s = true → ∀ j, j < inputSize i s → ibufByte s j = ibufByte u j

theorem witness_CommandsDependOnTheirOperandsOnly :
    (∃ s u t v : State, checksPass .decrypt s = true ∧ s ≠ u ∧ SameOperands .decrypt s u ∧ exec .decrypt s = .next t ∧
      exec .decrypt u = .next v) ∧
    (∃ s u t v : State, CoreInv s ∧ s.cap.bytes < s.ilen.toNat ∧ s.ibuf ≠ u.ibuf ∧ SameOperands .decrypt s u ∧
      exec .decrypt s = .next t ∧ exec .decrypt u = .next v) :=
  ⟨⟨e3, { e3 with ibuf := Memory.write e3.ibuf 16 9, obuf := [(3, 4)], fresh := 7, cmdr := 4 }, _, _, by decide +kernel,
      by decide +kernel, ⟨by decide +kernel, by decide +kernel⟩, rfl, rfl⟩,
    ⟨ecbState 0 0 4112 0, ecbState 1 0xAA 4112 0, _, _, by constructor <;> decide +kernel, by decide +kernel,
      by decide +kernel, ⟨by decide +kernel, fun h => absurd h (by decide +kernel)⟩, rfl, rfl⟩⟩

/-- Vector E6: two equal blocks. -/
def e6 : State := ecbState 32 0x6bc1bee22e409f96e93d7e117393172a6bc1bee22e409f96e93d7e117393172a 32 48

theorem witness_EcbEqualBlocksGiveEqualBlocks :
    (e6.ctx = .ecb ∧ 0 < e6.xlen.toNat / 16 ∧ 1 < e6.xlen.toNat / 16) ∧
    (∃ t, exec .encrypt e6 = .next t ∧ t.status.err = false) ∧
    (∀ k, k < 16 → (paddedMessage e6)[16 * 0 + k]? = (paddedMessage e6)[16 * 1 + k]?) :=
  ⟨by decide +kernel, ⟨_, rfl, by decide +kernel⟩, by decide +kernel⟩

/-- Vector C7's ciphertext, and the same with bit 0 of byte 15 flipped (T2b). -/
def c7 (last : Byte) : State :=
  let s := cbcState 32 0x75973edd5d1ce94cc1e0370da79a0c4a94bd48774ca1cfe7844ab0691dbd2075 32 0
  { s with ibuf := Memory.write s.ibuf 15 last }

theorem witness_CbcChangePropagatesToTwoBlocks : ∃ (s u t v : State) (d : Block),
    (s.ctx = .cbc ∧ u.ctx = .cbc ∧ u.key = s.key ∧ u.iv = s.iv ∧ u.ilen = s.ilen ∧ u.cap = s.cap) ∧
    (s.ilen.toNat ≠ 0 ∧ s.ilen.toNat % 16 = 0 ∧ s.ilen.toNat ≤ s.cap.bytes ∧ 0 < s.ilen.toNat / 16 ∧
      0 + 1 < s.ilen.toNat / 16 ∧ d ≠ zeroBlock) ∧
    (∀ k : Fin 16, ibufByte u (16 * 0 + k) = ibufByte s (16 * 0 + k) ^^^ d[k]) ∧
    (∀ n, n < s.ilen.toNat → n / 16 ≠ 0 → ibufByte u n = ibufByte s n) ∧
    exec .decrypt s = .next t ∧ exec .decrypt u = .next v :=
  ⟨c7 0x4a, c7 0x4b, _, _, blk 1, by decide +kernel, by decide +kernel, by decide +kernel, by decide +kernel, rfl, rfl⟩

/-- A state with a command in flight, its context and its input meets the invariant, and a step answers from it. -/
theorem witness_StepKeepsInv : CoreInv (inFlight 3 e3) ∧ ∃ t, step (inFlight 3 e3) = .next t :=
  ⟨by constructor <;> decide +kernel, _, rfl⟩

theorem witness_OnlyInitAndResetWriteTheContext :
    (∃ t, step (inFlight 1 (initState 16 0)) = .next t ∧ t.key ≠ (inFlight 1 (initState 16 0)).key) ∧
    (∃ t, step { e3 with host := [.reset] } = .next t ∧ t.ctx ≠ e3.ctx) :=
  ⟨⟨_, rfl, by decide +kernel⟩, ⟨_, rfl, by decide +kernel⟩⟩

theorem witness_OnlyTheHostWritesOperands :
    (∃ t, step { State.reset with host := [.write 4 16] } = .next t ∧ t.klen ≠ State.reset.klen) ∧
    (∃ t, step { e3 with host := [.reset] } = .next t ∧ t.ibuf ≠ e3.ibuf) :=
  ⟨⟨_, rfl, by decide +kernel⟩, ⟨_, rfl, by decide +kernel⟩⟩

theorem witness_BusyChangesOnlyAtIssueCompletionReset :
    (∃ t, step { State.reset with host := [.write 0 3] } = .next t ∧ State.reset.status.busy = false ∧ t.status.busy = true) ∧
    (∃ t, step (inFlight 3 State.reset) = .next t ∧ (inFlight 3 State.reset).status.busy = true ∧ t.status.busy = false) ∧
    (∃ t, step { inFlight 3 State.reset with host := [.reset], turns := [.host] } = .next t ∧ t.status.busy = false) :=
  ⟨⟨_, rfl, by decide +kernel⟩, ⟨_, rfl, by decide +kernel⟩, ⟨_, rfl, by decide +kernel⟩⟩

theorem witness_ResultRegistersChangeOnlyAtIssueCompletionReset :
    (∃ t, step (inFlight 3 State.reset) = .next t ∧ t.errcode ≠ (inFlight 3 State.reset).errcode) ∧
    (∃ t, step { fail .noContext State.reset with host := [.write 0 3] } = .next t ∧ t.errcode ≠ .failed .noContext) ∧
    (∃ t, step { fail .noContext State.reset with host := [.reset] } = .next t ∧ t.errcode ≠ .failed .noContext) :=
  ⟨⟨_, rfl, by decide +kernel⟩, ⟨_, rfl, by decide +kernel⟩, ⟨_, rfl, by decide +kernel⟩⟩

theorem witness_XtimeDoubles : (0x7F : Byte).toNat < 0x80 ∧ 0x80 ≤ (0x80 : Byte).toNat := by decide

theorem witness_PaddedLengthIsTheNextMultiple : 17 % 16 ≠ 0 ∧ 16 % 16 = 0 ∧ 32 % 16 = 0 ∧ 16 < 32 := by decide

theorem witness_RemovePaddingStripsATrailer : (∃ m, removePadding [0x41, 0x01] = .ok m) ∧
    (∀ m, removePadding [0x00] ≠ .ok m) ∧ 1 < ([0x41, 0x01] : List Byte).length := by
  refine ⟨⟨1, rfl⟩, fun m h => ?_, by decide⟩
  cases h

/-- The highest indices of the statements about blocks and round keys. -/
theorem witness_BlockIndices : 3 + 4 * 3 < 16 ∧ (3 : Nat) < 4 ∧ (9 : Nat) < 10 ∧ (11 : Nat) < 12 := by decide

end Sys2Proof.Tests
end

/-! SUPPORT. What one step can change (10_state.md): one inversion lemma with a case per kind of event, and what each kind
leaves unchanged. -/

namespace Sys2Proof.Machine

/-! ## The events of a step -/

/-- What one step does to the state: nothing but bookkeeping and the port's read data, a completion, a host write, or a
reset. -/
inductive Event (s : State) : State → Prop where
  /-- An idle turn, a host read or a `wait`: "has no side effect on any state" (20_memory.md R56). -/
  | quiet (v : Word) (n : Nat) (ops : List HostOp) (ts : List Agent) :
      Event s { s with hRdata := v, fresh := n, host := ops, turns := ts }
  /-- The command in CMDR completes; an illegal word is among the failures of `Completed`. -/
  | completed (i : Instr) (ts : List Agent) (t : State) (hb : s.status.busy = true)
      (h : Completed i { s with turns := ts } t) : Event s t
  /-- The host's oldest operation is a write. -/
  | write (a v : Word) (rest : List HostOp) (ts : List Agent) (t : State) (hh : s.host = .write a v :: rest)
      (h : Written a v { s with turns := ts, host := rest } t) : Event s t
  /-- The host's oldest operation is a reset. -/
  | reset (rest : List HostOp) (ts : List Agent) (hh : s.host = .reset :: rest) :
      Event s (resetStep { s with turns := ts, host := rest })

/-- A `wait` is a read of STATUS, after which it may still be pending. -/
theorem hostWait_eq_hostRead (s : State) : ∃ ops, hostWait s = { hostRead 1 s with host := ops } := by
  rw [hostWait_eq]
  split
  · exact ⟨_, rfl⟩
  · exact ⟨s.host, rfl⟩

/-- A completion is a completed command, whatever the word: an illegal one fails as a command can. -/
theorem completed_of_complete {s t : State} (h : complete s = .next t) : ∃ i, Completed i s t := by
  rcases complete_cases s with ⟨i, u, -, hu, hc⟩ | ⟨-, -, hu⟩ <;> rw [hu] at h <;> cases h
  · exact ⟨i, hc⟩
  · exact ⟨.encrypt, .failed .illegalCommand (by decide)⟩

/-- Every step is one of the events. -/
theorem step_event {s t : State} (h : step s = .next t) : Event s t := by
  cases step_cases h with
  | idle ts => exact .quiet s.hRdata s.fresh s.host ts
  | core ts _ hb hc =>
    obtain ⟨i, hi⟩ := completed_of_complete hc
    exact .completed i ts t hb hi
  | host op rest ts hh =>
    cases op with
    | write a v => exact .write a v rest ts _ hh (hostWrite_written a v _)
    | read a => exact .quiet _ _ rest ts
    | reset => exact .reset rest ts hh
    | wait =>
      obtain ⟨ops, hw⟩ := hostWait_eq_hostRead { s with turns := ts, host := rest }
      rw [hostStep, hw]
      exact .quiet _ _ ops ts

/-! ## What an event leaves unchanged -/

/-- A completion clears BUSY and sets DONE (R24). -/
theorem Completed.status {i : Instr} {s t : State} (h : Completed i s t) :
    t.status.busy = false ∧ t.status.done = true := by
  cases h <;> exact ⟨rfl, rfl⟩

/-- KLEN, VLEN, ILEN, XLEN and IBUF, which only the host writes (R27, R28, R30), are the same in both states. -/
def SameInput (s t : State) : Prop :=
  t.klen = s.klen ∧ t.vlen = s.vlen ∧ t.ilen = s.ilen ∧ t.xlen = s.xlen ∧ t.ibuf = s.ibuf

/-- "never written by the core" (R27, R28), "No command writes IBUF" (R30). -/
theorem Completed.sameInput {i : Instr} {s t : State} (h : Completed i s t) : SameInput s t := by
  cases h <;> simp [SameInput]

/-- A host write leaves the pending operations alone, and changes an input only while BUSY = 0. -/
theorem Written.sameInput_or_idle {a v : Word} {s t : State} (h : Written a v s t) :
    t.host = s.host ∧ (SameInput s t ∨ s.status.busy = false) := by
  cases h with
  | dropped hb => exact ⟨rfl, .inl ⟨rfl, rfl, rfl, rfl, rfl⟩⟩
  | issued hb _ | klen hb _ | vlen hb _ | ilen hb _ | xlen hb _ | ibuf hb _ _ _ | ignored hb _ _ _ => exact ⟨rfl, .inr hb⟩

/-- A host write is an issue, at CMD while BUSY = 0, or keeps STATUS, ERRCODE and OLEN (R24, R25, R29). -/
theorem Written.issue_or_sameResult {a v : Word} {s t : State} (h : Written a v s t) :
    (s.status.busy = false ∧ a = 0 ∧ t = issue v s) ∨
    (t.status = s.status ∧ t.errcode = s.errcode ∧ t.olen = s.olen) := by
  cases h with
  | issued hb ha => exact .inl ⟨hb, BitVec.eq_of_toNat_eq ha, rfl⟩
  | dropped | klen | vlen | ilen | xlen | ibuf | ignored => exact .inr ⟨rfl, rfl, rfl⟩

/-! ## The invariant: one lemma per operation -/

theorem coreInv_reset : CoreInv State.reset where
  busy_or_done := by simp
  err_done := by simp
  errcode_err := by simp
  olen_zero := by simp
  olen_cap := by simp
  output_written := by simp
  ibuf_wf := reset_buffers_wf.1
  obuf_wf := reset_buffers_wf.2
  ibuf_below := by simp
  obuf_below := by simp
  no_context := by simp
  ecb_iv := by simp

theorem coreInv_resetStep (s : State) : CoreInv (resetStep s) :=
  { coreInv_reset with
    olen_cap := by simp
    ibuf_below := by simp
    obuf_below := by simp }

variable {s : State}

/-- The invariant does not speak of the port's read data or of the model's own fields other than the capacity. -/
theorem coreInv_quiet (h : CoreInv s) (v : Word) (n : Nat) (ops : List HostOp) (ts : List Agent) :
    CoreInv { s with hRdata := v, fresh := n, host := ops, turns := ts } := { h with }

theorem coreInv_issue (h : CoreInv s) (w : Word) : CoreInv (issue w s) :=
  { h with
    busy_or_done := by simp [statusAtIssue]
    err_done := by simp [statusAtIssue]
    errcode_err := by simp [statusAtIssue]
    olen_zero := by simp
    olen_cap := by simp
    output_written := by simp }

theorem coreInv_fail (h : CoreInv s) (k : ErrorKind) : CoreInv (fail k s) :=
  { h with
    busy_or_done := by simp [statusAtError]
    err_done := by simp [statusAtError]
    errcode_err := by simp [statusAtError]
    olen_zero := by simp
    olen_cap := by simp
    output_written := by simp }

/-- A success keeps the invariant when the result fits OBUF and every byte of it has been written. -/
theorem coreInv_succeed (h : CoreInv s) {n : Word} (hc : n.toNat ≤ s.cap.bytes)
    (hw : ∀ i, i < n.toNat → (Memory.read s.obuf i).isSome = true) : CoreInv (succeed n s) :=
  { h with
    busy_or_done := by simp [statusAtSuccess]
    err_done := by simp [statusAtSuccess]
    errcode_err := by simp [statusAtSuccess]
    olen_zero := by simp [statusAtSuccess]
    olen_cap := hc
    output_written := hw }

theorem coreInv_setContext (h : CoreInv s) {key iv : Block} {ctx : Ctx} (hn : ctx ≠ .none)
    (he : ctx = .ecb → iv = zeroBlock) : CoreInv (setContext key iv ctx s) :=
  { h with
    no_context := fun hc => absurd hc hn
    ecb_iv := he }

/-- After a multi-byte write from index 0, the bytes written are defined, and so is every byte that was. -/
theorem Memory.isSome_read_writeBytes (m : Memory) (bs : List Byte) (i : Nat)
    (h : i < bs.length ∨ (Memory.read m i).isSome = true) :
    (Memory.read (Memory.writeBytes m 0 bs) i).isSome = true := by
  rw [Memory.read_writeBytes]
  split
  · rename_i hi
    simpa using hi
  · rename_i hi
    exact h.resolve_left (by omega)

theorem coreInv_storeOutput (h : CoreInv s) {out : List Byte} (hl : out.length ≤ s.cap.bytes) :
    CoreInv (storeOutput out s) :=
  { h with
    output_written := fun i hi => Memory.isSome_read_writeBytes _ _ i (.inr (h.output_written i hi))
    obuf_wf := Memory.writeBytes_wf h.obuf_wf 0 out
    obuf_below := Memory.writeBytes_below h.obuf_below ((Nat.zero_add _).trans_le hl) }

/-- A success with the first `n` bytes of the stored output as its result. -/
theorem coreInv_succeed_storeOutput (h : CoreInv s) {out : List Byte} {n : Word} (hl : out.length ≤ s.cap.bytes)
    (hn : n.toNat ≤ out.length) : CoreInv (succeed n (storeOutput out s)) :=
  coreInv_succeed (coreInv_storeOutput h hl) (Nat.le_trans hn hl) fun i hi =>
    Memory.isSome_read_writeBytes _ _ i (.inl (Nat.lt_of_lt_of_le hi hn))

theorem coreInv_setIbufByte (h : CoreInv s) {i : Nat} (hi : i < s.cap.bytes) (v : Word) : CoreInv (setIbufByte i v s) :=
  { h with
    ibuf_wf := Memory.write_wf h.ibuf_wf i _
    ibuf_below := Memory.write_below h.ibuf_below hi _ }

/-! ## The invariant: one lemma per event -/

theorem Completed.coreInv {i : Instr} {t : State} (hc : Completed i s t) (h : CoreInv s) : CoreInv t := by
  cases hc with
  | failed k _ => exact coreInv_fail h k
  | ecb _ => exact coreInv_succeed (coreInv_setContext h (by simp) fun _ => rfl) (by simp) (by simp)
  | cbc _ => exact coreInv_succeed (coreInv_setContext h (by simp) (by simp)) (by simp) (by simp)
  | encrypted _ out hl hcap _ => exact coreInv_succeed_storeOutput h (by omega) (by omega)
  | badPadding _ out hl hcap => exact coreInv_fail (coreInv_storeOutput h (by omega)) _
  | decrypted _ out m hl hcap hm =>
    have hle : (BitVec.ofNat 32 m).toNat ≤ m := by simpa using Nat.mod_le m _
    have hlt : m < out.length := (removePadding_le hm).1
    exact coreInv_succeed_storeOutput h (by omega) (by omega)

theorem Written.coreInv {a v : Word} {t : State} (hw : Written a v s t) (h : CoreInv s) : CoreInv t := by
  cases hw with
  | dropped | ignored => exact h
  | issued => exact coreInv_issue h v
  | klen | vlen | ilen | xlen => exact { h with }
  | ibuf _ i hi _ => exact coreInv_setIbufByte h hi v

theorem Event.coreInv {t : State} (he : Event s t) (h : CoreInv s) : CoreInv t := by
  cases he with
  | quiet v n ops ts => exact coreInv_quiet h v n ops ts
  | completed i ts _ _ hc => exact hc.coreInv (coreInv_quiet h s.hRdata s.fresh s.host ts)
  | write a v rest ts _ _ hw => exact hw.coreInv (coreInv_quiet h s.hRdata s.fresh rest ts)
  | reset rest ts _ => exact coreInv_resetStep _

end Sys2Proof.Machine

/-! PROOFS. The statements about the state (10_state.md). -/

namespace Sys2Proof.Proofs

open Sys2Proof.Machine

/-- Settles O40: each event keeps the invariant. -/
theorem stepKeepsInv : Obligations.StepKeepsInv := fun _ _ h hs => (step_event hs).coreInv h

/-- Settles O39. -/
theorem invAtReset : Obligations.InvAtReset := coreInv_reset

/-- Settles O43: of the events, only a host write while BUSY = 0 and a reset can change an input. -/
theorem onlyTheHostWritesOperands : Obligations.OnlyTheHostWritesOperands := by
  intro s t h hchanged
  have hdiff : ¬SameInput s t := by simp only [SameInput]; tauto
  cases step_event h with
  | quiet => exact absurd ⟨rfl, rfl, rfl, rfl, rfl⟩ hdiff
  | completed i ts _ _ hc => exact absurd hc.sameInput hdiff
  | write a v rest ts _ hh hw =>
    obtain ⟨hhost, hsame | hidle⟩ := hw.sameInput_or_idle
    · exact absurd hsame hdiff
    · exact .inl ⟨a, v, rest, hidle, hh, hhost⟩
  | reset rest ts hh => exact .inr ⟨rest, hh, rfl⟩

/-- Settles O44: BUSY rises at an issue, which is a write to CMD, and falls at a completion or a reset. -/
theorem busyChangesOnlyAtIssueCompletionReset : Obligations.BusyChangesOnlyAtIssueCompletionReset := by
  intro s t h
  cases step_event h with
  | quiet => exact ⟨fun hidle hbusy => by simp [hidle] at hbusy, fun hbusy hidle => by simp [hbusy] at hidle⟩
  | completed i ts _ hb hc => exact ⟨by simp [hb], fun _ _ => .inl hc.status.2⟩
  | write a v rest ts _ hh hw =>
    rcases hw.issue_or_sameResult with ⟨hidle, rfl, rfl⟩ | ⟨hst, -, -⟩
    · exact ⟨fun _ _ => ⟨v, rest, hh, rfl⟩, fun hbusy => absurd hbusy (by simpa using hidle)⟩
    · rw [hst]
      exact ⟨fun hidle hbusy => by simp [hidle] at hbusy, fun hbusy hidle => by simp [hbusy] at hidle⟩
  | reset rest ts hh => exact ⟨by simp, fun _ _ => .inr ⟨rest, hh, rfl⟩⟩

/-- Settles O58: a read, a wait and a write elsewhere than to CMD keep STATUS, ERRCODE and OLEN. -/
theorem resultRegistersChangeOnlyAtIssueCompletionReset :
    Obligations.ResultRegistersChangeOnlyAtIssueCompletionReset := by
  intro s t h hchanged
  cases step_event h with
  | quiet => simp at hchanged
  | completed i ts _ hb hc => exact .inl ⟨hb, hc.status⟩
  | write a v rest ts _ hh hw =>
    rcases hw.issue_or_sameResult with ⟨hidle, rfl, rfl⟩ | ⟨hst, herr, holen⟩
    · exact .inr (.inl ⟨v, rest, hidle, hh, rfl, rfl, rfl, rfl⟩)
    · simp [hst, herr, holen] at hchanged
  | reset rest ts hh => exact .inr (.inr ⟨rest, hh, rfl, rfl, rfl, rfl⟩)

/-- An idle core takes no step (R36). -/
theorem coreTurn_idle {s : State} (h : s.status.busy = false) : coreTurn s = .next s := by
  simp [coreTurn, h]

/-- Settles O9: each row of the R39 table, read off `State.reset`. -/
theorem resetStateHasTheTabulatedValues : Obligations.ResetStateHasTheTabulatedValues := by
  have hzero : ∀ k : Fin 16, zeroBlock[k] = 0x00 := by decide
  exact ⟨fun k => ⟨hzero k, hzero k⟩, rfl, rfl, rfl, rfl, rfl, rfl, rfl, rfl, rfl, rfl, fun _ => ⟨rfl, rfl⟩, rfl, rfl, rfl,
    coreTurn_idle rfl⟩

end Sys2Proof.Proofs

/-! SUPPORT. What the host port reads and writes (20_memory.md R50 to R57), what runs on the host's turn (R62), and the frame
of a command (R61). -/

namespace Sys2Proof.Machine

variable {s t : State} {a b v : Word} {i : Instr}

/-! ## The host's turn -/

theorem hostTurn_nil (h : s.host = []) : hostTurn s = .next s := by
  simp [hostTurn, h]

theorem hostTurn_cons {op : HostOp} {ops : List HostOp} (h : s.host = op :: ops) :
    hostTurn s = .next (hostStep op { s with host := ops }) := by
  simp [hostTurn, h]

theorem step_of_turns_host {rest : List Agent} (h : s.turns = .host :: rest) : step s = hostTurn { s with turns := rest } := by
  simp [step, advance, h]

/-- Once `turns` has run out, the host moves while the core is idle (Log 1). -/
theorem step_of_turns_nil_idle (h : s.turns = []) (hb : s.status.busy = false) : step s = hostTurn s := by
  simp [step, advance, h, hb]

/-! ## Reads -/

theorem hostReadValue_klen (h : a.toNat = 4) : hostReadValue s a = s.klen := by simp [hostReadValue, h]

theorem hostReadValue_vlen (h : a.toNat = 5) : hostReadValue s a = s.vlen := by simp [hostReadValue, h]

theorem hostReadValue_ilen (h : a.toNat = 6) : hostReadValue s a = s.ilen := by simp [hostReadValue, h]

theorem hostReadValue_xlen (h : a.toNat = 7) : hostReadValue s a = s.xlen := by simp [hostReadValue, h]

/-- ERRCODE, CTXR and OLEN read exactly while BUSY = 0 (R56). -/
theorem hostReadValue_result_idle (h : s.status.busy = false) :
    hostReadValue s 0x00000002 = errcodeWord s.errcode ∧ hostReadValue s 0x00000003 = ctxrWord s.ctx ∧
    hostReadValue s 0x00000008 = s.olen := by
  simp [hostReadValue, inIbuf, h]

theorem hostReadValue_unmapped (h8 : 8 < a.toNat) (hi : ¬inIbuf s a.toNat = true) (ho : ¬inObuf s a.toNat = true) :
    hostReadValue s a = 0 := by
  have hne : ∀ n ≤ 8, a.toNat ≠ n := fun n hn => by omega
  simp [hostReadValue, hne, hi, ho]

theorem hostReadValue_ibuf_at {j : Nat} (h : j < s.cap.bytes) :
    hostReadValue s (BitVec.ofNat 32 (0x40000000 + j)) = readIbuf s j := by
  have hc := s.cap.bytes_le
  have ha : (BitVec.ofNat 32 (0x40000000 + j)).toNat = 0x40000000 + j := by rw [BitVec.toNat_ofNat]; omega
  rw [hostReadValue_ibuf s _ ((inIbuf_iff s _).2 (by omega)), ha, Nat.add_sub_cancel_left]

theorem hostReadValue_obuf_at {j : Nat} (h : j < s.cap.bytes) :
    hostReadValue s (BitVec.ofNat 32 (0x80000000 + j)) =
      if s.status.busy then byteWord (freeByte s) else readObuf s j := by
  have hc := s.cap.bytes_le
  have ha : (BitVec.ofNat 32 (0x80000000 + j)).toNat = 0x80000000 + j := by rw [BitVec.toNat_ofNat]; omega
  rw [hostReadValue_obuf s _ ((inObuf_iff s _).2 (by omega)), ha, Nat.add_sub_cancel_left]

/-- A byte is zero-extended (R54). -/
theorem byteWord_lt (x : Byte) : (byteWord x).toNat < 0x100 := by
  have := x.isLt
  simp only [byteWord, BitVec.toNat_setWidth]
  omega

theorem readIbuf_of_read {j : Nat} {x : Byte} (h : Memory.read s.ibuf j = some x) : readIbuf s j = byteWord x := by
  simp [readIbuf, h]

theorem readObuf_of_read {j : Nat} {x : Byte} (hj : j < s.olen.toNat) (h : Memory.read s.obuf j = some x) :
    readObuf s j = byteWord x := by
  simp [readObuf, hj, h]

theorem readObuf_of_olen_le {j : Nat} (h : s.olen.toNat ≤ j) : readObuf s j = byteWord (freeByte s) :=
  if_neg (by omega)

/-- A change of the registers and the buffer that only the host writes is seen at the location changed and at no other. -/
theorem hostReadValue_congr_inputs (s : State) {klen vlen ilen xlen : Word} {ibuf : Memory}
    (hk : b.toNat = 4 → klen = s.klen) (hv : b.toNat = 5 → vlen = s.vlen) (hi : b.toNat = 6 → ilen = s.ilen)
    (hx : b.toNat = 7 → xlen = s.xlen)
    (hm : inIbuf s b.toNat = true →
      Memory.read ibuf (b.toNat - 0x40000000) = Memory.read s.ibuf (b.toNat - 0x40000000)) :
    hostReadValue { s with klen := klen, vlen := vlen, ilen := ilen, xlen := xlen, ibuf := ibuf } b = hostReadValue s b :=
  ite_congr rfl (fun _ => rfl) fun _ => ite_congr rfl (fun _ => rfl) fun _ => ite_congr rfl hk fun _ =>
  ite_congr rfl hv fun _ => ite_congr rfl hi fun _ => ite_congr rfl hx fun _ =>
  ite_congr rfl (fun h => congrArg (fun x : Option Byte => byteWord (x.getD (freeByte s))) (hm h)) fun _ => rfl

/-! ## Writes -/

/-- A length register reads back whole. -/
theorem Written.read_length (h : Written a v s t) (hb : s.status.busy = false) (ha : 4 ≤ a.toNat ∧ a.toNat ≤ 7) :
    hostReadValue t a = v := by
  cases h with
  | klen _ h4 => exact hostReadValue_klen h4
  | vlen _ h5 => exact hostReadValue_vlen h5
  | ilen _ h6 => exact hostReadValue_ilen h6
  | xlen _ h7 => exact hostReadValue_xlen h7
  | dropped hbusy => simp [hb] at hbusy
  | issued | ibuf | ignored => omega

/-- An IBUF byte reads back in its low 8 bits. -/
theorem Written.read_ibuf (h : Written a v s t) (hb : s.status.busy = false)
    (ha : 0x40000000 ≤ a.toNat ∧ a.toNat < 0x40000000 + s.cap.bytes) : hostReadValue t a = byteWord (v.setWidth 8) := by
  cases h with
  | ibuf _ j _ haj =>
    have hi : inIbuf (setIbufByte j v s) a.toNat = true := (inIbuf_iff s _).2 ha
    rw [hostReadValue_ibuf _ a hi]
    exact readIbuf_of_read (by simp [haj])
  | dropped hbusy => simp [hb] at hbusy
  | issued | klen | vlen | ilen | xlen => omega
  | ignored _ _ _ hi => exact absurd ha hi

/-- A write elsewhere than to CMD leaves what every other location reads. -/
theorem Written.read_other (h : Written a v s t) (ha : a.toNat ≠ 0) (hba : b ≠ a) :
    hostReadValue t b = hostReadValue s b := by
  have hne : b.toNat ≠ a.toNat := mt BitVec.eq_of_toNat_eq hba
  cases h with
  | dropped | ignored => rfl
  | issued _ h0 => exact absurd h0 ha
  | klen _ h4 =>
    exact hostReadValue_congr_inputs s (by omega) (fun _ => rfl) (fun _ => rfl) (fun _ => rfl) fun _ => rfl
  | vlen _ h5 =>
    exact hostReadValue_congr_inputs s (fun _ => rfl) (by omega) (fun _ => rfl) (fun _ => rfl) fun _ => rfl
  | ilen _ h6 =>
    exact hostReadValue_congr_inputs s (fun _ => rfl) (fun _ => rfl) (by omega) (fun _ => rfl) fun _ => rfl
  | xlen _ h7 =>
    exact hostReadValue_congr_inputs s (fun _ => rfl) (fun _ => rfl) (fun _ => rfl) (by omega) fun _ => rfl
  | ibuf _ j _ haj =>
    refine hostReadValue_congr_inputs s (fun _ => rfl) (fun _ => rfl) (fun _ => rfl) (fun _ => rfl) fun hi => ?_
    have hi := (inIbuf_iff s _).1 hi
    exact Memory.read_write_other _ _ (by omega)

/-- A write to a location that is not writable is ignored (R57). -/
theorem Written.eq_of_not_writable (h : Written a v s t) (h0 : a.toNat ≠ 0) (hr : ¬(4 ≤ a.toNat ∧ a.toNat ≤ 7))
    (hi : ¬(0x40000000 ≤ a.toNat ∧ a.toNat < 0x40000000 + s.cap.bytes)) : t = s := by
  cases h with
  | dropped | ignored => rfl
  | issued | klen | vlen | ilen | xlen | ibuf => omega

/-! ## The frame of a command -/

/-- The OBUF bytes a command may store, from index 0 upward (R61): none at an INIT, XLEN at ENCRYPT, ILEN at DECRYPT. -/
def storedSize (i : Instr) (s : State) : Nat :=
  match i with
  | .initEcb | .initCbc => 0
  | .encrypt => expectedLength s
  | .decrypt => inputLength s

theorem read_storeOutput_of_length_le {out : List Byte} {j : Nat} (h : out.length ≤ j) :
    Memory.read (storeOutput out s).obuf j = Memory.read s.obuf j := by
  rw [storeOutput_obuf, Memory.read_writeBytes, if_neg (by omega)]

theorem Completed.read_obuf_of_storedSize_le (h : Completed i s t) {j : Nat} (hj : storedSize i s ≤ j) :
    Memory.read t.obuf j = Memory.read s.obuf j := by
  cases h with
  | failed | ecb | cbc => rfl
  | encrypted hi _ hl | badPadding hi _ hl | decrypted hi _ _ hl =>
    subst hi
    exact read_storeOutput_of_length_le (hl.trans_le hj)

/-- The checks come before the first store: only bad padding is found after it. -/
theorem Completed.obuf_of_error (h : Completed i s t) (he : t.status.err = true)
    (hk : t.errcode ≠ .failed .invalidPadding) : t.obuf = s.obuf := by
  cases h with
  | failed => rfl
  | badPadding => exact absurd rfl hk
  | ecb | cbc | encrypted | decrypted => cases he

/-- A message command leaves the context alone. -/
theorem Completed.sameContext (h : Completed i s t) (hi : i = .encrypt ∨ i = .decrypt) :
    t.key = s.key ∧ t.iv = s.iv ∧ t.ctx = s.ctx := by
  cases h with
  | failed | encrypted | badPadding | decrypted => exact ⟨rfl, rfl, rfl⟩
  | ecb h | cbc h => simp [h] at hi

/-- CMDR, the port's read data, the capacity and the lists of the two agents are the same in both states. -/
def SameSurroundings (s t : State) : Prop :=
  t.cmdr = s.cmdr ∧ t.hRdata = s.hRdata ∧ t.cap = s.cap ∧ t.host = s.host ∧ t.turns = s.turns

theorem Completed.sameSurroundings (h : Completed i s t) : SameSurroundings s t := by
  cases h <;> simp [SameSurroundings]

end Sys2Proof.Machine

/-! PROOFS. The statements about the memory, the host port and the commands' frames (20_memory.md). -/

namespace Sys2Proof.Proofs

open Sys2Proof.Machine

/-- Settles O12: each clause is one fact about what a write can do. -/
theorem hostWriteReachesOneLocation : Obligations.HostWriteReachesOneLocation := by
  intro s a v
  have hw := hostWrite_written a v s
  exact ⟨hostWrite_busy a v s, fun hb h0 =>
    ⟨hw.read_length hb, hw.read_ibuf hb, fun _ hba => hw.read_other h0 hba, hw.eq_of_not_writable h0⟩⟩

/-- Settles O13: the registers are read at their addresses, and a buffer byte is zero-extended, specified or free. -/
theorem hostReadReturnsTheLocation : Obligations.HostReadReturnsTheLocation := by
  intro s
  refine ⟨rfl, rfl, hostReadValue_klen rfl, hostReadValue_vlen rfl, hostReadValue_ilen rfl, hostReadValue_xlen rfl,
    fun j x hj hx => ?ibufWritten, fun hb => ?idle, fun j hj _ => ?ibufUnwritten, fun j hj h => ?obufUnspecified,
    fun a => ⟨s.fresh + 1, rfl⟩⟩
  case ibufWritten => rw [hostReadValue_ibuf_at hj, readIbuf_of_read hx, byteWord]
  case idle =>
    obtain ⟨herr, hctx, holen⟩ := hostReadValue_result_idle hb
    refine ⟨herr, hctx, holen, fun j x hj hjo hx => ?_⟩
    rw [hostReadValue_obuf_at hj, hb, if_neg (by decide), readObuf_of_read hjo hx, byteWord]
  case ibufUnwritten => exact hostReadValue_ibuf_at hj ▸ byteWord_lt _
  case obufUnspecified =>
    rw [hostReadValue_obuf_at hj]
    split
    · exact byteWord_lt _
    · rename_i hb
      rw [readObuf_of_olen_le (h.resolve_left hb)]
      exact byteWord_lt _

/-- Settles O14: every address above 8 outside the two windows reads 0 and is not writable. -/
theorem reservedAndUnmappedAreInert : Obligations.ReservedAndUnmappedAreInert := by
  intro s a v h8 hi ho
  have hread : hostReadValue s a = 0 := hostReadValue_unmapped h8 (mt (inIbuf_iff s _).1 hi) (mt (inObuf_iff s _).1 ho)
  have hwrite : hostWrite a v s = s := (hostWrite_written a v s).eq_of_not_writable (by omega) (by omega) hi
  exact ⟨hread, hwrite, rfl, rfl⟩

/-- Settles O22: an INIT stores no OBUF byte. -/
theorem initFrame : Obligations.InitFrame := by
  intro i s t hi h
  have hc := exec_cases h
  obtain ⟨hklen, hvlen, hilen, hxlen, hibuf⟩ := hc.sameInput
  obtain ⟨hcmdr, hrest⟩ := hc.sameSurroundings
  have hnone : storedSize i s = 0 := by rcases hi with rfl | rfl <;> rfl
  exact ⟨hklen, hvlen, hilen, hxlen, hcmdr, fun _ => by rw [hibuf],
    fun j => hc.read_obuf_of_storedSize_le (hnone ▸ j.zero_le), hrest⟩

/-- Settles O31: what a message command stores is its output, and that only after its checks. -/
theorem messageFrame : Obligations.MessageFrame := by
  intro i s t hi h
  have hc := exec_cases h
  obtain ⟨hkey, hiv, hctx⟩ := hc.sameContext hi
  obtain ⟨hklen, hvlen, hilen, hxlen, hibuf⟩ := hc.sameInput
  obtain ⟨hcmdr, hrest⟩ := hc.sameSurroundings
  refine ⟨hkey, hiv, hctx, hklen, hvlen, hilen, hxlen, hcmdr, fun _ => by rw [hibuf], ?encrypt, ?decrypt,
    fun he hk _ => by rw [hc.obuf_of_error he hk], hrest⟩
  case encrypt => rintro rfl j hj; exact hc.read_obuf_of_storedSize_le hj
  case decrypt => rintro rfl j hj; exact hc.read_obuf_of_storedSize_le hj

/-- Settles O5: a step is the host's turn, and the host's turn runs the head of its list. -/
theorem stepRunsTheHostsOldestOperation : Obligations.StepRunsTheHostsOldestOperation := by
  refine ⟨fun s op ops rest hh ht => ?onTurn, fun s op ops hh ht hb => ?idleCore, fun s hh ht hb => ?idle⟩
  case onTurn => exact (step_of_turns_host ht).trans (hostTurn_cons hh)
  case idleCore => rw [step_of_turns_nil_idle ht hb, hostTurn_cons hh]
  case idle => rw [step_of_turns_nil_idle ht hb, hostTurn_nil hh]

end Sys2Proof.Proofs

/-! SUPPORT. The decoder as the inverse of the encoder (30_encoding.md R80, R81, R83), and the writes a script's `ld` expands
to (R87). -/

namespace Sys2Proof

/-! ## The fields of a command word -/

/-- The two fields of a word written to CMD (R80). -/
def commandWordOf (w : Word) : CommandWord := { rsvd := rsvdField w, opc := opcField w }

@[simp] theorem commandWordOf_toWord (c : CommandWord) : commandWordOf c.toWord = c := by
  have hrsvd : rsvdField c.toWord = c.rsvd := BitVec.extractLsb'_append_eq_left
  have hopc : opcField c.toWord = c.opc := BitVec.extractLsb'_append_eq_right
  rw [commandWordOf, hrsvd, hopc]

@[simp] theorem toWord_commandWordOf (w : Word) : (commandWordOf w).toWord = w :=
  (BitVec.extractLsb'_append_extractLsb'_eq_extractLsb' (by decide)).trans BitVec.extractLsb'_eq_self

theorem toWord_inj {c d : CommandWord} : c.toWord = d.toWord ↔ c = d :=
  (Function.LeftInverse.injective commandWordOf_toWord).eq_iff

/-! ## The decoder -/

/-- The decoder answers only the command whose fields the word has. -/
theorem commandWordOf_of_decode {w : Word} {i : Instr} (h : decode w = .ok i) : commandWordOf w = i.fields := by
  have hrsvd : rsvdField w = 0 := by
    by_contra hne
    rw [decode, if_pos hne] at h
    cases h
  have hopc : opcField w = i.fields.opc := by
    rw [decode, if_neg (not_not.2 hrsvd)] at h
    split_ifs at h <;> cases h <;> assumption
  rw [commandWordOf, hrsvd, hopc]
  cases i <;> rfl

theorem decode_encode (i : Instr) : decode (encode i) = .ok i := by
  cases i <;> decide

theorem decode_eq_ok_iff {w : Word} {i : Instr} : decode w = .ok i ↔ w = encode i :=
  ⟨fun h => (toWord_commandWordOf w).symm.trans (congrArg CommandWord.toWord (commandWordOf_of_decode h)),
    fun h => h ▸ decode_encode i⟩

theorem decode_toWord_eq_ok_iff {c : CommandWord} {i : Instr} : decode c.toWord = .ok i ↔ c = i.fields :=
  decode_eq_ok_iff.trans toWord_inj

/-- The opcodes of the map are 1 to 4, one for each command (R81). -/
theorem exists_fields_iff {c : CommandWord} :
    (∃ i : Instr, c = i.fields) ↔ c.rsvd = 0 ∧ 1 ≤ c.opc.toNat ∧ c.opc.toNat ≤ 4 := by
  constructor
  · rintro ⟨i, rfl⟩
    cases i <;> decide
  · obtain ⟨rsvd, opc⟩ := c
    rintro ⟨rfl : rsvd = 0, hlo : 1 ≤ opc.toNat, hhi : opc.toNat ≤ 4⟩
    have hopc : opc = 1 ∨ opc = 2 ∨ opc = 3 ∨ opc = 4 := by bv_omega
    rcases hopc with rfl | rfl | rfl | rfl
    · exact ⟨.initEcb, rfl⟩
    · exact ⟨.initCbc, rfl⟩
    · exact ⟨.encrypt, rfl⟩
    · exact ⟨.decrypt, rfl⟩

end Sys2Proof

namespace Sys2Proof.Machine

variable {s : State} {i : Nat}

/-! ## The writes of `ld` -/

theorem addr_ibuf_toNat (hi : i < s.cap.bytes) : (Loc.ibuf i).addr.toNat = 0x40000000 + i := by
  have hc := s.cap.bytes_le
  simp only [Loc.addr, BitVec.toNat_ofNat]
  omega

/-- While BUSY = 0, a write to `IBUF[i]` stores the byte (R55). -/
theorem hostWrite_ibuf (hb : s.status.busy = false) (hi : i < s.cap.bytes) (v : Word) :
    hostWrite (Loc.ibuf i).addr v s = setIbufByte i v s := by
  have haddr := addr_ibuf_toNat hi
  have hw := hostWrite_written (Loc.ibuf i).addr v s
  generalize hostWrite (Loc.ibuf i).addr v s = t at hw ⊢
  cases hw with
  | dropped hbusy => simp [hb] at hbusy
  | issued | klen | vlen | ilen | xlen | ignored => omega
  | ibuf _ j _ hj =>
    obtain rfl : j = i := by omega
    rfl

/-- The writes of `ld` are one multi-byte write to IBUF. -/
theorem foldl_hostStep_loadOps (bytes : List Byte) (o : Nat) (s : State) (hb : s.status.busy = false)
    (hfit : o + bytes.length ≤ s.cap.bytes) :
    (loadOps o bytes).foldl (fun u op => hostStep op u) s = { s with ibuf := Memory.writeBytes s.ibuf o bytes } := by
  induction bytes generalizing o s with
  | nil => rfl
  | cons b bs ih =>
    rw [List.length_cons] at hfit
    have hbyte : (b.setWidth 32).setWidth 8 = b := by simp
    have hfirst : hostStep (wrOp (.ibuf o) (b.setWidth 32)) s = { s with ibuf := Memory.write s.ibuf o b } := by
      rw [wrOp, hostStep, hostWrite_ibuf hb (by omega), setIbufByte, hbyte]
    rw [loadOps, List.foldl_cons, hfirst]
    exact ih (o + 1) { s with ibuf := Memory.write s.ibuf o b } hb (by show o + 1 + bs.length ≤ s.cap.bytes; omega)

end Sys2Proof.Machine

/-! PROOFS. The statements about the encoding and the host script (30_encoding.md). -/

namespace Sys2Proof.Proofs

open Sys2Proof.Machine

/-- Settles O2: a word decodes to a command exactly when it is the command's encoding, that is, has the command's fields. -/
theorem encodeAndDecodeAgree : Obligations.EncodeAndDecodeAgree := by
  refine ⟨decode_encode, fun c => ?accepted, fun c i h => decode_eq_ok_iff.1 h⟩
  case accepted => simp only [decode_toWord_eq_ok_iff, exists_fields_iff]

/-- Settles O19: the writes are one multi-byte write, of which each byte is read back. -/
theorem loadPlacesTheBytes : Obligations.LoadPlacesTheBytes := by
  intro bytes o s hb hfit
  refine ⟨_, foldl_hostStep_loadOps bytes o s hb hfit, fun k hk => ?placed, fun i hi => ?kept⟩
  case placed => rw [Memory.read_writeBytes, if_pos (by omega), Nat.add_sub_cancel_left]
  case kept => rw [Memory.read_writeBytes, if_neg (by omega)]

/-- Settles O1: the four words are the four encodings. -/
theorem decodeFollowsTheOpcodeMap : Obligations.DecodeFollowsTheOpcodeMap := fun _ =>
  ⟨decode_eq_ok_iff, decode_eq_ok_iff, decode_eq_ok_iff, decode_eq_ok_iff⟩

/-- Settles O18: a `wait` is one read of STATUS, left pending while BUSY = 1. -/
theorem waitPollsStatus : Obligations.WaitPollsStatus := by
  intro s
  refine ⟨fun hb => ?idle, fun hb => ?busy, ?value⟩
  case idle => exact (hostWait_eq s).trans (if_neg (by simp [hb]))
  case busy => exact (hostWait_eq s).trans (if_pos hb)
  case value =>
    obtain ⟨ops, hread⟩ := hostWait_eq_hostRead s
    exact congrArg State.hRdata hread

end Sys2Proof.Proofs

/-! SUPPORT. The field multiplier as a sum of doublings (40_field_arithmetic.md R100 to R102): it commutes with
doubling, and the eight doublings of 1, of which every byte is a sum, act as repeated doubling in either operand. -/

namespace Sys2Proof.Machine

/-! ## Doubling -/

/-- The sampled bit says which half of its range the byte is in. -/
theorem getLsbD_seven_iff (a : Byte) : a.getLsbD 7 = true ↔ 0x80 ≤ a.toNat := by
  rw [← BitVec.msb_eq_getLsbD_last a, BitVec.msb_eq_decide, decide_eq_true_iff]

theorem xtime_of_lt {a : Byte} (h : a.toNat < 0x80) : xtime a = a <<< 1 :=
  if_neg (mt (getLsbD_seven_iff a).1 (not_le.2 h))

theorem xtime_of_le {a : Byte} (h : 0x80 ≤ a.toNat) : xtime a = (a <<< 1) ^^^ 0x1B :=
  if_pos ((getLsbD_seven_iff a).2 h)

theorem toNat_shiftLeft_one (a : Byte) : (a <<< 1).toNat = 2 * a.toNat % 0x100 := by
  rw [BitVec.toNat_shiftLeft, Nat.shiftLeft_eq, Nat.mul_comm]

@[simp] theorem xtime_zero : xtime 0 = 0 := by decide

/-! ## The product as a sum of doublings -/

/-- With `n` steps to go, the running value is `a` doubled 8 - n times. -/
theorem multiplyLoop_eq_foldl (a b : Byte) {n : Nat} (hn : n ≤ 8) (p : Byte) :
    multiplyLoop b n (xtime^[8 - n] a) p =
      (List.range' (8 - n) n).foldl (fun p k => if b.getLsbD k then p ^^^ (xtime^[k]) a else p) p := by
  induction n generalizing p with
  | zero => rfl
  | succ n ih =>
    have hk : 8 - n = 7 - n + 1 := by omega
    have ih := ih (by omega)
    rw [hk, Function.iterate_succ_apply'] at ih
    rw [show 8 - (n + 1) = 7 - n by omega, multiplyLoop, ih, List.range'_succ, List.foldl_cons]

theorem multiply_eq_foldl (a b : Byte) :
    multiply a b = (List.range 8).foldl (fun p k => if b.getLsbD k then p ^^^ (xtime^[k]) a else p) 0 := by
  rw [List.range_eq_range']
  exact multiplyLoop_eq_foldl a b le_rfl 0

/-! ## The product and doubling -/

theorem multiplyLoop_xtime (b : Byte) (n : Nat) (a : Byte) :
    multiplyLoop b n (xtime a) 0 = xtime (multiplyLoop b n a 0) := by
  induction n generalizing a with
  | zero => exact xtime_zero.symm
  | succ n ih => rw [multiplyLoop_succ, multiplyLoop_succ, xtime_xor, ih, apply_ite xtime, xtime_zero]

/-- Doubling the first operand doubles the product. -/
theorem multiply_semiconj_xtime (b : Byte) : Function.Semiconj (multiply · b) xtime xtime := multiplyLoop_xtime b 8

/-- Bit k alone is set in the second operand, and it selects the k-th doubling of the first. -/
theorem multiply_iterate_xtime_one (a : Byte) {k : Nat} (hk : k < 8) : multiply a (xtime^[k] 1) = xtime^[k] a := by
  have h : multiply a (xtime^[k] 1) = 0 ^^^ xtime^[k] a := by interval_cases k <;> rfl
  exact h.trans BitVec.zero_xor

/-! ## Every byte is a sum of doublings of 1 -/

theorem iterate_xtime_one_eq_twoPow : ∀ k < 8, xtime^[k] 1 = BitVec.twoPow 8 k := by decide

/-- One more of the low bits of a byte. -/
theorem setWidth_setWidth_succ (x : Byte) (n : Nat) :
    (x.setWidth (n + 1)).setWidth 8 = (x.setWidth n).setWidth 8 ^^^ if x.getLsbD n then BitVec.twoPow 8 n else 0 := by
  refine BitVec.eq_of_getLsbD_eq fun k hk => ?_
  simp only [BitVec.getLsbD_xor, BitVec.getLsbD_setWidth, apply_ite (BitVec.getLsbD · k), BitVec.getLsbD_twoPow]
  rcases eq_or_ne n k with rfl | hkn
  · simp [hk]
  · simp [hkn, show k ≤ n ↔ k < n by omega]

/-- What holds of the doublings of 1 and of sums holds of every byte. -/
theorem byte_xor_induction {P : Byte → Prop} (double : ∀ k < 8, P (xtime^[k] 1))
    (xor : ∀ x y, P x → P y → P (x ^^^ y)) (x : Byte) : P x := by
  have zero : P 0 := xor _ _ (double 0 (by decide)) (double 0 (by decide))
  have lowBits : ∀ n ≤ 8, P ((x.setWidth n).setWidth 8) := by
    intro n
    induction n with
    | zero => exact fun _ => by simpa [BitVec.of_length_zero] using zero
    | succ n ih =>
      intro hn
      rw [setWidth_setWidth_succ]
      refine xor _ _ (ih (by omega)) ?_
      split
      · exact iterate_xtime_one_eq_twoPow n hn ▸ double n hn
      · exact zero
  exact (BitVec.setWidth_eq x).subst (lowBits 8 le_rfl)

/-! ## The order of the operands -/

theorem one_multiply (b : Byte) : multiply 1 b = b := by
  induction b using byte_xor_induction with
  | double k hk => exact multiply_iterate_xtime_one 1 hk
  | xor x y hx hy => rw [multiply_xor, hx, hy]

theorem iterate_xtime_one_multiply (k : Nat) (b : Byte) : multiply (xtime^[k] 1) b = xtime^[k] b := by
  have h := (multiply_semiconj_xtime b).iterate_right k 1
  rwa [one_multiply] at h

theorem multiply_comm (a b : Byte) : multiply a b = multiply b a := by
  induction b using byte_xor_induction with
  | double k hk => rw [multiply_iterate_xtime_one a hk, iterate_xtime_one_multiply]
  | xor x y hx hy => rw [multiply_xor, xor_multiply, hx, hy]

theorem zero_multiply (b : Byte) : multiply 0 b = 0 := by
  have h := xor_multiply 0 0 b
  rwa [BitVec.xor_self, BitVec.xor_self] at h

theorem two_multiply (b : Byte) : multiply 2 b = xtime b := iterate_xtime_one_multiply 1 b

theorem three_multiply (b : Byte) : multiply 3 b = xtime b ^^^ b :=
  (xor_multiply 2 1 b).trans (by rw [two_multiply, one_multiply])

end Sys2Proof.Machine

/-! PROOFS. The statements about the field arithmetic (40_field_arithmetic.md). -/

namespace Sys2Proof.Proofs

open Sys2Proof.Machine

/-- Settles O47: both orders agree at the doublings of 1, and both are linear. -/
theorem multiplyCommutes : Obligations.MultiplyCommutes := multiply_comm

/-- Settles O45: below 0x80 the shift drops no bit; above, it drops bit 8 and 0x1B is added. -/
theorem xtimeDoubles : Obligations.XtimeDoubles := by
  refine ⟨fun a h => ?low, fun a h => ?high, by decide⟩
  case low =>
    rw [xtime_of_lt h, toNat_shiftLeft_one]
    omega
  case high =>
    have hdrop : 2 * a.toNat % 0x100 = 2 * a.toNat - 0x100 := by omega
    rw [xtime_of_le h, BitVec.toNat_xor, toNat_shiftLeft_one, hdrop]
    rfl

/-- Settles O46: the loop is the sum of the doublings, and the corner cases are 0, the doublings of 1 and their sum. -/
theorem multiplyAccumulatesDoublings : Obligations.MultiplyAccumulatesDoublings := by
  refine ⟨multiply_eq_foldl, fun b => ?corners, by decide⟩
  have hzero : multiply b 0 = 0 := (multiply_comm b 0).trans (zero_multiply b)
  have hone : multiply b 1 = b := multiply_iterate_xtime_one b (k := 0) (by decide)
  exact ⟨zero_multiply b, hzero, one_multiply b, hone, two_multiply b, three_multiply b⟩

end Sys2Proof.Proofs

/-! SUPPORT. The substitution tables (41_substitution_tables.md R110, R111): what is read off the table entry by entry,
and what follows from there being finitely many bytes. -/

namespace Sys2Proof.Machine

/-- R111's definition of the inverse table, by inspection of the 256 entries. -/
@[simp] theorem invSubByte_subByte : ∀ x : Byte, invSubByte (subByte x) = x := by decide

/-- R110, by inspection of the 256 entries. -/
theorem subByte_ne_self : ∀ x : Byte, subByte x ≠ x := by decide

theorem subByte_injective : Function.Injective subByte := Function.LeftInverse.injective invSubByte_subByte

/-- Every byte value occurs in SBOX (R110): the 256 entries are distinct. -/
theorem subByte_surjective : Function.Surjective subByte := by
  have : Finite Byte := .of_injective BitVec.toFin fun _ _ => BitVec.eq_of_toFin_eq
  exact Finite.surjective_of_injective subByte_injective

/-- The other composition needs no second inspection: SBOX is onto. -/
@[simp] theorem subByte_invSubByte : ∀ y : Byte, subByte (invSubByte y) = y :=
  Function.LeftInverse.rightInverse_of_surjective invSubByte_subByte subByte_surjective

/-- R112, by evaluation of the nine doublings. -/
theorem rcon_succ : ∀ j : Fin 9, rcon j.succ = xtime (rcon j.castSucc) := by decide

end Sys2Proof.Machine

/-! PROOFS. The statement about the tables (41_substitution_tables.md). -/

namespace Sys2Proof.Proofs

open Sys2Proof.Machine

/-- Settles O48: INV_SBOX undoes SBOX at every entry, so SBOX is a permutation and the two are mutual inverses. -/
theorem tablesAreConsistent : Obligations.TablesAreConsistent :=
  ⟨fun x => ⟨invSubByte_subByte x, subByte_invSubByte x, subByte_ne_self x⟩, rfl, rcon_succ⟩

end Sys2Proof.Proofs

/-! SUPPORT. The round transform (42_round_transform.md R119 to R129): each operation and its inverse, byte by byte in
the matrix view; column mixing as a matrix product over the field; the block operations from these. -/

namespace Sys2Proof.Machine

/-! ## Blocks in the matrix view -/

/-- Two blocks are equal when every row and column of the matrix view is (R11). -/
theorem block_ext {x y : Block} (h : ∀ (r c : Nat) (_ : r < 4) (_ : c < 4), x[r + 4 * c] = y[r + 4 * c]) : x = y := by
  refine Vector.ext fun k hk => ?_
  have hrc := h (k % 4) (k / 4) (by omega) (by omega)
  simpa only [Nat.mod_add_div] using hrc

/-! ## Substitution and row rotation -/

@[simp] theorem invSubBytes_subBytes (s : Block) : invSubBytes (subBytes s) = s :=
  Vector.ext fun k hk => by rw [invSubBytes_get, subBytes_get, invSubByte_subByte]

@[simp] theorem subBytes_invSubBytes (s : Block) : subBytes (invSubBytes s) = s :=
  Vector.ext fun k hk => by rw [subBytes_get, invSubBytes_get, subByte_invSubByte]

/-- Rotating row r right and then left reads column c again. -/
@[simp] theorem invShiftRows_shiftRows (s : Block) : invShiftRows (shiftRows s) = s := by
  refine block_ext fun r c hr hc => ?_
  have hback : ((c + 4 - r) % 4 + r) % 4 = c := by omega
  rw [invShiftRows_get _ r c hr hc, shiftRows_get _ r _ hr (Nat.mod_lt _ (by decide))]
  simp only [hback]

/-- Rotating row r left and then right reads column c again. -/
@[simp] theorem shiftRows_invShiftRows (s : Block) : shiftRows (invShiftRows s) = s := by
  refine block_ext fun r c hr hc => ?_
  have hback : ((c + r) % 4 + 4 - r) % 4 = c := by omega
  rw [shiftRows_get _ r c hr hc, invShiftRows_get _ r _ hr (Nat.mod_lt _ (by decide))]
  simp only [hback]

/-! ## Column mixing -/

theorem multiply_assoc (a b c : Byte) : multiply (multiply a b) c = multiply a (multiply b c) := by
  induction a using byte_xor_induction with
  | double k hk =>
    rw [iterate_xtime_one_multiply, iterate_xtime_one_multiply]
    exact (multiply_semiconj_xtime c).iterate_right k b
  | xor x y hx hy => rw [xor_multiply, xor_multiply, xor_multiply, hx, hy]

/-- The product of two coefficient matrices over the field. -/
def mulCoefficients (m n : Coefficients) : Coefficients :=
  Vector.ofFn fun i => Vector.ofFn fun j => mixByte m[i] n[0][j] n[1][j] n[2][j] n[3][j]

/-- The matrix that maps every column to itself. -/
def oneCoefficients : Coefficients := #v[#v[1, 0, 0, 0], #v[0, 1, 0, 0], #v[0, 0, 1, 0], #v[0, 0, 0, 1]]

/-- A row of a product of matrices applied to a column. -/
theorem mixByte_mulCoefficients (m n : Coefficients) (i : Nat) (hi : i < 4) (c0 c1 c2 c3 : Byte) :
    mixByte (mulCoefficients m n)[i] c0 c1 c2 c3 =
      mixByte m[i] (mixByte n[0] c0 c1 c2 c3) (mixByte n[1] c0 c1 c2 c3) (mixByte n[2] c0 c1 c2 c3)
        (mixByte n[3] c0 c1 c2 c3) := by
  simp only [mulCoefficients, mixByte, Vector.getElem_ofFn, Fin.getElem_fin, multiply_xor, xor_multiply, multiply_assoc]
  ac_rfl

theorem mixWith_mixWith (m n : Coefficients) (s : Block) : mixWith m (mixWith n s) = mixWith (mulCoefficients m n) s := by
  refine block_ext fun i c hi hc => ?_
  have hcolumn (j : Nat) (hj : j < 4) := mixWith_get n s c j hc hj
  simp only [Nat.add_comm i]
  rw [mixWith_get _ _ c i hc hi, mixWith_get _ _ c i hc hi, mixByte_mulCoefficients,
    ← hcolumn 0 (by decide), ← hcolumn 1 (by decide), ← hcolumn 2 (by decide), ← hcolumn 3 (by decide)]
  rfl

theorem mixWith_oneCoefficients (s : Block) : mixWith oneCoefficients s = s := by
  refine block_ext fun i c hi hc => ?_
  simp only [Nat.add_comm i]
  rw [mixWith_get _ _ c i hc hi]
  have hone (b : Byte) : multiply 1#8 b = b := one_multiply b
  have hzero (b : Byte) : multiply 0#8 b = 0#8 := zero_multiply b
  interval_cases i <;> simp [oneCoefficients, mixByte, hone, hzero]

/-- The two matrices of R124 and R125 are mutual inverses over the field. -/
theorem mulCoefficients_invMixMatrix_mixMatrix : mulCoefficients invMixMatrix mixMatrix = oneCoefficients := by decide

theorem mulCoefficients_mixMatrix_invMixMatrix : mulCoefficients mixMatrix invMixMatrix = oneCoefficients := by decide

@[simp] theorem invMixColumns_mixColumns (s : Block) : invMixColumns (mixColumns s) = s := by
  rw [invMixColumns, mixColumns, mixWith_mixWith, mulCoefficients_invMixMatrix_mixMatrix, mixWith_oneCoefficients]

@[simp] theorem mixColumns_invMixColumns (s : Block) : mixColumns (invMixColumns s) = s := by
  rw [mixColumns, invMixColumns, mixWith_mixWith, mulCoefficients_mixMatrix_invMixMatrix, mixWith_oneCoefficients]

/-! ## Key mixing and the block operations -/

@[simp] theorem addRoundKey_addRoundKey (s k : Block) : addRoundKey (addRoundKey s k) k = s := xorBlock_cancel s k

theorem invFullRound_fullRound (rk : KeySchedule) (s : Block) (i : Fin 11) :
    invFullRound rk (fullRound rk s i) i = s := by
  simp [invFullRound, fullRound]

theorem fullRound_invFullRound (rk : KeySchedule) (s : Block) (i : Fin 11) :
    fullRound rk (invFullRound rk s i) i = s := by
  simp [invFullRound, fullRound]

/-- Steps undone one by one, the last first. -/
theorem foldl_reverse_foldl {α β : Type} {f g : α → β → α} (undo : ∀ s i, g (f s i) i = s) (is : List β) (s : α) :
    is.reverse.foldl g (is.foldl f s) = s := by
  induction is generalizing s with
  | nil => rfl
  | cons i is ih => simp only [List.reverse_cons, List.foldl_append, List.foldl_cons, List.foldl_nil, ih, undo]

/-- R128's full rounds undo R127's. -/
theorem invFullRounds_fullRounds (rk : KeySchedule) (s : Block) :
    fullRounds.reverse.foldl (invFullRound rk) (fullRounds.foldl (fullRound rk) s) = s :=
  foldl_reverse_foldl (invFullRound_fullRound rk) fullRounds s

/-- R127's full rounds undo R128's: rounds 1 to 9 are rounds 9 to 1 reversed. -/
theorem fullRounds_invFullRounds (rk : KeySchedule) (s : Block) :
    fullRounds.foldl (fullRound rk) (fullRounds.reverse.foldl (invFullRound rk) s) = s := by
  have h := foldl_reverse_foldl (fullRound_invFullRound rk) fullRounds.reverse s
  rwa [List.reverse_reverse] at h

theorem decryptBlock_encryptBlock (s : Block) (rk : KeySchedule) : decryptBlock (encryptBlock s rk) rk = s := by
  simp only [decryptBlock, encryptBlock, addRoundKey_addRoundKey, invShiftRows_shiftRows, invSubBytes_subBytes,
    invFullRounds_fullRounds]

theorem encryptBlock_decryptBlock (s : Block) (rk : KeySchedule) : encryptBlock (decryptBlock s rk) rk = s := by
  simp only [decryptBlock, encryptBlock, addRoundKey_addRoundKey, subBytes_invSubBytes, shiftRows_invShiftRows,
    fullRounds_invFullRounds]

end Sys2Proof.Machine

/-! PROOFS. The statements about the round transform (42_round_transform.md). -/

namespace Sys2Proof.Proofs

open Sys2Proof.Machine

/-- Settles O51: the matrices of column mixing are mutual inverses over the field, the tables are on bytes and the
rotations on columns; the rounds are undone one by one, the last first. -/
theorem inversePairs : Obligations.InversePairs :=
  ⟨fun s => ⟨invSubBytes_subBytes s, subBytes_invSubBytes s⟩, fun s => ⟨invShiftRows_shiftRows s, shiftRows_invShiftRows s⟩,
    fun s => ⟨invMixColumns_mixColumns s, mixColumns_invMixColumns s⟩, addRoundKey_addRoundKey, decryptBlock_encryptBlock⟩

/-- Settles O52: DecryptBlock is a two-sided inverse. -/
theorem encryptBlockIsABijection : Obligations.EncryptBlockIsABijection := by
  intro rk
  have hleft : Function.LeftInverse (decryptBlock · rk) (encryptBlock · rk) := (decryptBlock_encryptBlock · rk)
  have hright : Function.RightInverse (decryptBlock · rk) (encryptBlock · rk) := (encryptBlock_decryptBlock · rk)
  exact ⟨⟨hleft.injective, hright.surjective⟩, hright⟩

/-- Settles O50: the eight rows of the two matrices, each applied to the column. -/
theorem mixColumnsByColumn : Obligations.MixColumnsByColumn := by
  intro s c hc
  have hrow (m : Coefficients) (i : Fin 4) := mixWith_get m s c i hc i.isLt
  exact ⟨⟨hrow mixMatrix 0, hrow mixMatrix 1, hrow mixMatrix 2, hrow mixMatrix 3⟩,
    hrow invMixMatrix 0, hrow invMixMatrix 1, hrow invMixMatrix 2, hrow invMixMatrix 3⟩

/-- Settles O49, one operation after the other. -/
theorem roundOperationsByteByByte : Obligations.RoundOperationsByteByByte := fun s k r c hr hc =>
  ⟨subBytes_get s _ (by omega), invSubBytes_get s _ (by omega), shiftRows_get s r c hr hc, invShiftRows_get s r c hr hc,
    addRoundKey_get s k _ (by omega)⟩

end Sys2Proof.Proofs

/-! SUPPORT. The key schedule (43_key_schedule.md R140): one round, word by word, and each round key from the one before. -/

namespace Sys2Proof.Machine

/-- Word 0 of the next round key: the last word, bytes 12 to 15, is read from byte 13 on and substituted, and the round
constant goes into the first byte only. -/
theorem nextRoundKey_word_zero (p : Block) (rc : Byte) :
    (nextRoundKey p rc)[0] = p[0] ^^^ (subByte p[13] ^^^ rc) ∧ (nextRoundKey p rc)[1] = p[1] ^^^ subByte p[14] ∧
    (nextRoundKey p rc)[2] = p[2] ^^^ subByte p[15] ∧ (nextRoundKey p rc)[3] = p[3] ^^^ subByte p[12] :=
  ⟨rfl, rfl, rfl, rfl⟩

/-- Each byte of a later word is four indices above the byte of the preceding word that it is XORed with. -/
theorem nextRoundKey_later_word (p : Block) (rc : Byte) (j : Nat) (hj : j < 12) :
    (nextRoundKey p rc)[4 + j] = p[4 + j] ^^^ (nextRoundKey p rc)[j] := by
  interval_cases j <;> rfl

theorem expandKey_zero (key : Block) : (expandKey key)[0] = key := rfl

/-- Round r + 1 uses `RCON[r]` (R140), for each of the ten rounds. -/
theorem expandKey_succ (key : Block) (r : Nat) (hr : r < 10) :
    (expandKey key)[r + 1] = nextRoundKey (expandKey key)[r] (rcon ⟨r, hr⟩) := by
  interval_cases r <;> rfl

end Sys2Proof.Machine

/-! PROOFS. The statement about the key schedule (43_key_schedule.md). -/

namespace Sys2Proof.Proofs

open Sys2Proof.Machine

/-- Settles O53: every round key is `nextRoundKey` of the one before, which is then read word by word. -/
theorem expandKeyRecurrence : Obligations.ExpandKeyRecurrence := by
  refine ⟨rfl, rfl, fun key => ⟨expandKey_zero key, fun r hr => ?_⟩⟩
  obtain ⟨h0, h1, h2, h3⟩ := nextRoundKey_word_zero (expandKey key)[r] (rcon ⟨r, hr⟩)
  simp only [expandKey_succ key r hr]
  exact ⟨h0, h1, h2, h3, nextRoundKey_later_word _ _⟩

end Sys2Proof.Proofs

/-! SUPPORT. Padding (44_padding.md R150 to R155): the padded length in closed form, the buffers RemovePadding accepts, and
the result lengths of the message commands. -/

namespace Sys2Proof.Machine

variable {s t : State}

/-! ## Lengths -/

theorem padLength_of_mod_ne_zero {n : Nat} (h : n % 16 ≠ 0) : padLength n = 16 - n % 16 := if_pos h

theorem padLength_of_mod_eq_zero {n : Nat} (h : n % 16 = 0) : padLength n = 16 := if_neg (not_not.2 h)

/-- One block more than the whole blocks of the message. -/
theorem paddedLength_eq (n : Nat) : paddedLength n = 16 * (n / 16 + 1) := by
  by_cases h : n % 16 = 0
  · rw [paddedLength, padLength_of_mod_eq_zero h]
    omega
  · rw [paddedLength, padLength_of_mod_ne_zero h]
    omega

/-! ## RemovePadding -/

/-- A trailer of p bytes of value p, with p in 1..16, is accepted and stripped. -/
theorem removePadding_append_replicate (msg : List Byte) {p : Byte} (hlo : 1 ≤ p.toNat) (hhi : p.toNat ≤ 16) :
    removePadding (msg ++ List.replicate p.toNat p) = .ok msg.length := by
  have hlast : (msg ++ List.replicate p.toNat p).getLast? = some p := by
    simp [List.getLast?_replicate, show p.toNat ≠ 0 by omega]
  have hlength : (msg ++ List.replicate p.toNat p).length = msg.length + p.toNat := by simp
  simp only [removePadding, hlast, hlength, Nat.add_sub_cancel, List.drop_left]
  rw [if_neg (by omega), if_neg (by omega), if_neg (by omega), if_pos (by simp)]

/-- The buffers RemovePadding accepts (R153). -/
theorem removePadding_eq_ok_iff {buf : List Byte} {m : Nat} :
    removePadding buf = .ok m ↔
      ∃ p : Byte, 1 ≤ p.toNat ∧ p.toNat ≤ 16 ∧ buf.length = m + p.toNat ∧ buf.drop m = List.replicate p.toNat p := by
  constructor
  · intro h
    obtain ⟨p, -, hlo, hhi, hle, hall, rfl⟩ := removePadding_ok h
    refine ⟨p, hlo, hhi, by omega, List.eq_replicate_iff.2 ⟨by rw [List.length_drop]; omega, ?_⟩⟩
    simpa only [List.all_eq_true, beq_iff_eq] using hall
  · rintro ⟨p, hlo, hhi, hlength, hdrop⟩
    have h := removePadding_append_replicate (buf.take m) hlo hhi
    rwa [← hdrop, List.take_append_drop, List.length_take, min_eq_left (by omega)] at h

/-- Whatever RemovePadding answers, the decrypted buffer stays where it was stored (R166). -/
theorem finishDecrypt_obuf (out : List Byte) (s : State) : (finishDecrypt out s).obuf = (storeOutput out s).obuf := by
  rcases finishDecrypt_cases out s with ⟨-, h⟩ | ⟨m, -, h⟩ <;> rw [h]
  · exact fail_obuf _ _
  · exact succeed_obuf _ _

/-! ## Result lengths -/

/-- A successful ENCRYPT passed the check of XLEN, which is its result length (R165). -/
theorem Completed.olen_of_encrypt (h : Completed .encrypt s t) (he : t.status.err = false) :
    t.olen = s.xlen ∧ s.xlen.toNat = paddedLength s.ilen.toNat := by
  cases h with
  | encrypted _ _ _ _ hx => exact ⟨rfl, hx⟩
  | failed => cases he
  | ecb hi | cbc hi | badPadding hi | decrypted hi => cases hi

/-- A successful DECRYPT took 1 to 16 bytes off its input's length (R166). -/
theorem Completed.olen_of_decrypt (h : Completed .decrypt s t) (he : t.status.err = false) :
    t.olen.toNat < s.ilen.toNat ∧ s.ilen.toNat ≤ t.olen.toNat + 16 := by
  cases h with
  | decrypted _ out m hl _ hm =>
    have hbounds : m < s.ilen.toNat ∧ s.ilen.toNat ≤ m + 16 := hl ▸ removePadding_le hm
    have hfits : m < 2 ^ 32 := hbounds.1.trans s.ilen.isLt
    rwa [succeed_olen, BitVec.toNat_ofNat, Nat.mod_eq_of_lt hfits]
  | failed | badPadding => cases he
  | ecb hi | cbc hi | encrypted hi => cases hi

end Sys2Proof.Machine

/-! PROOFS. The statements about padding (44_padding.md). -/

namespace Sys2Proof.Proofs

open Sys2Proof.Machine

/-- Settles O55: the padded length is 16 times one more than the quotient. -/
theorem paddedLengthIsTheNextMultiple : Obligations.PaddedLengthIsTheNextMultiple := by
  refine ⟨fun n => ?general, by decide⟩
  have heq := paddedLength_eq n
  exact ⟨padLength_of_mod_ne_zero, padLength_of_mod_eq_zero, padLength_pos n, padLength_le n, rfl, paddedLength_mod n,
    by omega, fun m hm hlt => by omega⟩

/-- Settles O57: the padding bytes are a valid trailer. -/
theorem unpadUndoesPad : Obligations.UnpadUndoesPad := by
  intro msg
  have hle := padLength_le msg.length
  have hbyte : (BitVec.ofNat 8 (padLength msg.length)).toNat = padLength msg.length := by
    rw [BitVec.toNat_ofNat, Nat.mod_eq_of_lt (by omega)]
  have h := removePadding_append_replicate msg (hbyte.symm ▸ padLength_pos msg.length) (hbyte.symm ▸ hle)
  rwa [hbyte] at h

/-- Settles O56: a buffer RemovePadding accepts ends in a trailer, and DECRYPT stores the buffer before looking at it. -/
theorem removePaddingStripsATrailer : Obligations.RemovePaddingStripsATrailer := by
  refine ⟨fun buf m => removePadding_eq_ok_iff, fun buf hnone => ?rejected, rfl, fun buf s i hi => ?stored⟩
  case rejected =>
    cases h : removePadding buf with
    | ok m => exact absurd h (hnone m)
    | error k => rw [removePadding_error h]
  case stored =>
    rw [finishDecrypt_obuf, storeOutput_obuf, Memory.read_writeBytes, if_pos (by omega), Nat.sub_zero]

/-- Settles O32: ENCRYPT's result is the padded message, and DECRYPT's is its input less the trailer. -/
theorem resultLengths : Obligations.ResultLengths := by
  refine ⟨fun s t h he => ?encrypt, fun s t h he => ?decrypt⟩
  case encrypt =>
    obtain ⟨holen, hx⟩ := (exec_cases h).olen_of_encrypt he
    have heq := paddedLength_eq s.ilen.toNat
    rw [holen]
    exact ⟨rfl, hx, by omega, by omega, by omega, by omega⟩
  case decrypt =>
    have hbounds := (exec_cases h).olen_of_decrypt he
    exact ⟨s.ilen.toNat - t.olen.toNat, by omega, by omega, by omega, by omega⟩

end Sys2Proof.Proofs

/-! SUPPORT. The command lifecycle (45_mode_commands.md R160 to R162, R171, R175): the core's turn, the host's
operations while a command is in flight, and what can write the context. -/

namespace Sys2Proof.Machine

variable {s t u : State}

/-! ## The core's turn -/

theorem complete_of_decode_ok {c : Instr} (h : decode s.cmdr = .ok c) : complete s = exec c s := by
  simp only [complete, h]

theorem complete_of_decode_error {e : DecodeError} (h : decode s.cmdr = .error e) :
    complete s = .next (fail .illegalCommand s) := by
  simp only [complete, h, completeIllegal]

theorem step_of_turns_core {rest : List Agent} (h : s.turns = .core :: rest) :
    step s = coreTurn { s with turns := rest } := by
  simp only [step, advance, h]

/-- Complete is enabled iff BUSY = 1 (R161). -/
theorem step_of_turns_core_busy {rest : List Agent} (h : s.turns = .core :: rest) (hb : s.status.busy = true) :
    step s = complete { s with turns := rest } := (step_of_turns_core h).trans (if_pos hb)

/-- Once `turns` has run out, a busy core moves (Log 1). -/
theorem step_of_turns_nil_busy (h : s.turns = []) (hb : s.status.busy = true) : step s = complete s := by
  simp only [step, advance, coreTurn, h, hb, if_true]

/-- The placed word is the one issued, whole. -/
theorem step_withFetchWord (s : State) (w : Word) : step (s.withFetchWord 32 w.toNat) = complete (issue w s) := by
  have hword : BitVec.ofNat 32 (w.toNat % 2 ^ 32) = w := by
    rw [Nat.mod_eq_of_lt w.isLt, BitVec.ofNat_toNat, BitVec.setWidth_eq]
  rw [State.withFetchWord, placeCommand, hword]
  exact step_of_turns_core_busy rfl rfl

/-! ## The host while a command is in flight -/

/-- Only the port's read data, the count of free values and the host's pending list differ. -/
def DiffersAtPort (s t : State) : Prop := t = { s with hRdata := t.hRdata, fresh := t.fresh, host := t.host }

theorem DiffersAtPort.trans (h : DiffersAtPort s t) (h' : DiffersAtPort t u) : DiffersAtPort s u := by
  unfold DiffersAtPort at h h' ⊢
  rw [h', h]

theorem DiffersAtPort.busy (h : DiffersAtPort s t) : t.status.busy = s.status.busy := by rw [h]

/-- A read has no side effect (R56), and a `wait` is a read. -/
theorem write_or_differsAtPort {op : HostOp} (hop : op ≠ .reset) (s : State) :
    (∃ a v, op = .write a v) ∨ DiffersAtPort s (hostStep op s) := by
  cases op with
  | write a v => exact .inl ⟨a, v, rfl⟩
  | read a => exact .inr rfl
  | wait =>
    obtain ⟨ops, hw⟩ := hostWait_eq_hostRead s
    rw [hostStep, hw]
    exact .inr rfl
  | reset => exact absurd rfl hop

/-- While BUSY = 1 a write is dropped (R64). -/
theorem hostStep_differsAtPort {op : HostOp} (hb : s.status.busy = true) (hop : op ≠ .reset) :
    DiffersAtPort s (hostStep op s) := by
  rcases write_or_differsAtPort hop s with ⟨a, v, rfl⟩ | h
  · rw [hostStep, hostWrite_busy a v s hb]
    rfl
  · exact h

theorem foldl_hostStep_differsAtPort (ops : List HostOp) (hb : s.status.busy = true) (hops : HostOp.reset ∉ ops) :
    DiffersAtPort s (ops.foldl (fun u op => hostStep op u) s) := by
  induction ops generalizing s with
  | nil => rfl
  | cons op ops ih =>
    obtain ⟨hop, hrest⟩ := not_or.1 (mt List.mem_cons.2 hops)
    have hfirst := hostStep_differsAtPort hb (Ne.symm hop)
    exact hfirst.trans (ih (hfirst.busy.trans hb) hrest)

/-! ## The context -/

/-- KEY, IV and CTX are the same in both states. -/
def SameContext (s t : State) : Prop := t.key = s.key ∧ t.iv = s.iv ∧ t.ctx = s.ctx

/-- Only a successful INIT writes the context (R175). -/
theorem Completed.sameContext_or_init {c : Instr} (h : Completed c s t) :
    SameContext s t ∨ ((c = .initEcb ∨ c = .initCbc) ∧ t.status = statusAtSuccess) := by
  cases h with
  | failed | encrypted | badPadding | decrypted => exact .inl ⟨rfl, rfl, rfl⟩
  | ecb hi => exact .inr ⟨.inl hi, rfl⟩
  | cbc hi => exact .inr ⟨.inr hi, rfl⟩

theorem Written.sameContext {a v : Word} (h : Written a v s t) : SameContext s t := by
  cases h <;> exact ⟨rfl, rfl, rfl⟩

theorem DiffersAtPort.sameContext (h : DiffersAtPort s t) : SameContext s t := by
  rw [h]
  exact ⟨rfl, rfl, rfl⟩

/-- Of the host's operations only a reset writes the context. -/
theorem hostStep_sameContext {op : HostOp} (hop : op ≠ .reset) : SameContext s (hostStep op s) := by
  rcases write_or_differsAtPort hop s with ⟨a, v, rfl⟩ | h
  · exact (hostWrite_written a v s).sameContext
  · exact h.sameContext

theorem complete_sameContext_or_init (h : complete s = .next t) :
    SameContext s t ∨
      ((decode s.cmdr = .ok .initEcb ∨ decode s.cmdr = .ok .initCbc) ∧ t.status = statusAtSuccess) := by
  rcases complete_cases s with ⟨c, _, hdec, hc, hcompleted⟩ | ⟨_, _, hc⟩ <;> rw [hc] at h <;> cases h
  · refine hcompleted.sameContext_or_init.imp_right (And.imp_left ?_)
    rintro (rfl | rfl)
    · exact .inl hdec
    · exact .inr hdec
  · exact .inl ⟨rfl, rfl, rfl⟩

end Sys2Proof.Machine

/-! SUPPORT. What a command answers (45_mode_commands.md R163 to R170): the first failing check or the result, and of the
message commands the blocks stored and the trailer checked. -/

namespace Sys2Proof.Machine

variable {s t u : State} {c : Instr} {i j k : Nat}

/-! ## The strategies of the context -/

/-- The encryption strategy of the context (R167, R168). -/
def encryptChain (s : State) : List Block → List Block :=
  match s.ctx with
  | .none | .ecb => ecbEncrypt (expandKey s.key)
  | .cbc => cbcEncrypt (expandKey s.key) s.iv

/-- The decryption strategy of the context (R169, R170). -/
def decryptChain (s : State) : List Block → List Block :=
  match s.ctx with
  | .none | .ecb => ecbDecrypt (expandKey s.key)
  | .cbc => cbcDecrypt (expandKey s.key) s.iv

theorem encryptChain_ecb (h : s.ctx = .ecb) : encryptChain s = ecbEncrypt (expandKey s.key) := by
  simp only [encryptChain, h]

theorem encryptChain_cbc (h : s.ctx = .cbc) : encryptChain s = cbcEncrypt (expandKey s.key) s.iv := by
  simp only [encryptChain, h]

theorem decryptChain_ecb (h : s.ctx = .ecb) : decryptChain s = ecbDecrypt (expandKey s.key) := by
  simp only [decryptChain, h]

theorem decryptChain_cbc (h : s.ctx = .cbc) : decryptChain s = cbcDecrypt (expandKey s.key) s.iv := by
  simp only [decryptChain, h]

theorem encryptChain_congr (h : SameContext s u) : encryptChain u = encryptChain s := by
  obtain ⟨hkey, hiv, hctx⟩ := h
  simp only [encryptChain, hkey, hiv, hctx]

theorem decryptChain_congr (h : SameContext s u) : decryptChain u = decryptChain s := by
  obtain ⟨hkey, hiv, hctx⟩ := h
  simp only [decryptChain, hkey, hiv, hctx]

theorem keepsLength_encryptChain (s : State) : KeepsLength (encryptChain s) := by
  unfold encryptChain
  split
  · exact ecbEncrypt_length _
  · exact ecbEncrypt_length _
  · exact cbcEncrypt_length _ _

theorem keepsLength_decryptChain (s : State) : KeepsLength (decryptChain s) := by
  unfold decryptChain
  split
  · exact ecbDecrypt_length _
  · exact ecbDecrypt_length _
  · exact cbcDecrypt_length _ _

theorem exec_encrypt_of_no_context (h : s.ctx = .none) : exec .encrypt s = .next (fail .noContext s) := by
  simp only [exec, execEncrypt, h]

theorem exec_decrypt_of_no_context (h : s.ctx = .none) : exec .decrypt s = .next (fail .noContext s) := by
  simp only [exec, execDecrypt, h]

theorem exec_encrypt_of_context (h : s.ctx ≠ .none) : exec .encrypt s = .next (encryptWith (encryptChain s) s) := by
  cases hctx : s.ctx with
  | none => exact absurd hctx h
  | ecb => simp only [exec, execEncrypt, hctx, encryptChain_ecb]
  | cbc => simp only [exec, execEncrypt, hctx, encryptChain_cbc]

theorem exec_decrypt_of_context (h : s.ctx ≠ .none) : exec .decrypt s = .next (decryptWith (decryptChain s) s) := by
  cases hctx : s.ctx with
  | none => exact absurd hctx h
  | ecb => simp only [exec, execDecrypt, hctx, decryptChain_ecb]
  | cbc => simp only [exec, execDecrypt, hctx, decryptChain_cbc]

/-- The blocks a successful ENCRYPT stores. -/
def encryptOutput (s : State) : List Block := encryptChain s (windows (paddedMessage s))

/-- The blocks DECRYPT stores once its checks have passed. -/
def decryptOutput (s : State) : List Block := decryptChain s (windows (ciphertext s))

/-! ## The checks -/

/-- The error of the first check that fails (60_exceptions.md R207), for a command whose checks do not pass. -/
def firstError (c : Instr) (s : State) : ErrorKind :=
  match c with
  | .initEcb | .initCbc => .contractViolation
  | .encrypt =>
    if s.ctx = .none then .noContext
    else if expectedLength s ≠ paddedLength (inputLength s) then .lengthMismatch
    else .capacityExceeded
  | .decrypt =>
    if s.ctx = .none then .noContext
    else if inputLength s = 0 ∨ inputLength s % 16 ≠ 0 then .lengthMismatch
    else .capacityExceeded

/-- The state a command answers once its checks have passed. -/
def passedResult (c : Instr) (s : State) : State :=
  match c with
  | .initEcb => succeed 0 (setContext (keyOperand s) zeroBlock .ecb s)
  | .initCbc => succeed 0 (setContext (keyOperand s) (ivOperand s) .cbc s)
  | .encrypt => succeed s.xlen (storeOutput (blockBytes (encryptOutput s)) s)
  | .decrypt => finishDecrypt (blockBytes (decryptOutput s)) s

theorem exec_of_checksPass (h : checksPass c s = true) : exec c s = .next (passedResult c s) := by
  cases c with
  | initEcb | initCbc => exact if_pos h
  | encrypt =>
    obtain ⟨hctx, hx, hcap⟩ := (checksPass_encrypt s).1 h
    exact (exec_encrypt_of_context hctx).trans (congrArg _ ((if_neg (not_not.2 hx)).trans (if_neg (not_lt.2 hcap))))
  | decrypt =>
    obtain ⟨hctx, h0, hmod, hcap⟩ := (checksPass_decrypt s).1 h
    exact (exec_decrypt_of_context hctx).trans
      (congrArg _ ((if_neg (not_or.2 ⟨h0, not_not.2 hmod⟩)).trans (if_neg (not_lt.2 hcap))))

theorem exec_of_not_checksPass (h : ¬checksPass c s = true) : exec c s = .next (fail (firstError c s) s) := by
  cases c with
  | initEcb | initCbc => exact if_neg h
  | encrypt =>
    by_cases hctx : s.ctx = .none
    · rw [exec_encrypt_of_no_context hctx, firstError, if_pos hctx]
    · rw [exec_encrypt_of_context hctx, firstError, if_neg hctx]
      rcases encryptWith_cases (encryptChain s) s with ⟨hx, hw⟩ | ⟨hx, -, hw⟩ | ⟨hx, hcap, -⟩
      · rw [hw, if_pos hx]
      · rw [hw, if_neg (not_not.2 hx)]
      · exact absurd ((checksPass_encrypt s).2 ⟨hctx, hx, hcap⟩) h
  | decrypt =>
    by_cases hctx : s.ctx = .none
    · rw [exec_decrypt_of_no_context hctx, firstError, if_pos hctx]
    · rw [exec_decrypt_of_context hctx, firstError, if_neg hctx]
      rcases decryptWith_cases (decryptChain s) s with ⟨hl, hw⟩ | ⟨h0, hmod, -, hw⟩ | ⟨h0, hmod, hcap, -⟩
      · rw [hw, if_pos hl]
      · rw [hw, if_neg (not_or.2 ⟨h0, not_not.2 hmod⟩)]
      · exact absurd ((checksPass_decrypt s).2 ⟨hctx, h0, hmod, hcap⟩) h

theorem checksPass_of_success (h : exec c s = .next t) (he : t.status.err = false) : checksPass c s = true := by
  by_contra hpass
  rw [exec_of_not_checksPass hpass] at h
  cases h
  cases he

theorem eq_passedResult (hpass : checksPass c s = true) (h : exec c s = .next t) : t = passedResult c s := by
  rw [exec_of_checksPass hpass] at h
  exact (Host.Outcome.next.inj h).symm

/-! ## The operands of the INIT commands -/

theorem keyOperand_eq (s : State) : keyOperand s = Vector.ofFn fun k : Fin 16 => ibufByte s k := by
  simp only [keyOperand, ibufBlock, Nat.mul_zero, Nat.zero_add]

theorem zeroBlock_eq : zeroBlock = Vector.ofFn fun _ => 0x00 := by decide

/-! ## The blocks of the message commands -/

/-- Block i of the padded plaintext. -/
def messageBlock (s : State) (i : Nat) : Block := Vector.ofFn fun j : Fin 16 =>
  if 16 * i + j < s.ilen.toNat then ibufByte s (16 * i + j) else BitVec.ofNat 8 (padLength s.ilen.toNat)

theorem windows_paddedMessage_length (s : State) :
    (windows (paddedMessage s)).length = paddedLength s.ilen.toNat / 16 := by
  have hmod := paddedLength_mod s.ilen.toNat
  rw [windows_length _ ((paddedMessage_length s).symm ▸ hmod), paddedMessage_length]
  rfl

theorem windows_ciphertext_length (hmod : s.ilen.toNat % 16 = 0) :
    (windows (ciphertext s)).length = s.ilen.toNat / 16 := by
  rw [windows_length _ ((ciphertext_length s).symm ▸ hmod), ciphertext_length]
  rfl

theorem paddedMessage_block_get (hi : i < paddedLength s.ilen.toNat / 16) (hk : k < 16) :
    (paddedMessage s)[16 * i + k]? = some (messageBlock s i)[k] := by
  have hmod := paddedLength_mod s.ilen.toNat
  rw [paddedMessage_get s _ (by rw [inputLength]; omega), messageBlock, Vector.getElem_ofFn]
  rfl

theorem windows_paddedMessage_get (hi : i < (windows (paddedMessage s)).length) :
    (windows (paddedMessage s))[i] = messageBlock s i := by
  have hmod := paddedLength_mod s.ilen.toNat
  refine Vector.ext fun k hk => Option.some.inj ?_
  rw [windows_get _ ((paddedMessage_length s).symm ▸ hmod) i k hi hk,
    paddedMessage_block_get (windows_paddedMessage_length s ▸ hi) hk]

theorem ibufBlock_get (s : State) (i : Nat) (hk : k < 16) : (ibufBlock s i)[k] = ibufByte s (16 * i + k) := by
  rw [ibufBlock, Vector.getElem_ofFn]

theorem windows_ciphertext_get (hmod : s.ilen.toNat % 16 = 0) (hi : i < (windows (ciphertext s)).length) :
    (windows (ciphertext s))[i] = ibufBlock s i := by
  have hlen := windows_ciphertext_length hmod
  refine Vector.ext fun k hk => Option.some.inj ?_
  rw [windows_get _ ((ciphertext_length s).symm ▸ hmod) i k hi hk, ciphertext,
    ibufBytes_get _ _ _ (by rw [inputLength]; omega), ibufBlock_get s i hk]

theorem encryptOutput_length (s : State) : (encryptOutput s).length = paddedLength s.ilen.toNat / 16 :=
  (keepsLength_encryptChain s _).trans (windows_paddedMessage_length s)

theorem decryptOutput_length (hmod : s.ilen.toNat % 16 = 0) : (decryptOutput s).length = s.ilen.toNat / 16 :=
  (keepsLength_decryptChain s _).trans (windows_ciphertext_length hmod)

theorem blockBytes_decryptOutput_length (hmod : s.ilen.toNat % 16 = 0) :
    (blockBytes (decryptOutput s)).length = s.ilen.toNat := by
  rw [blockBytes_length, decryptOutput_length hmod]
  omega

theorem encryptOutput_ecb (hctx : s.ctx = .ecb) (hi : i < (encryptOutput s).length) :
    (encryptOutput s)[i] = encryptBlock (messageBlock s i) (expandKey s.key) := by
  simp only [encryptOutput, encryptChain_ecb hctx, ecbEncrypt, List.getElem_map, windows_paddedMessage_get]

theorem encryptOutput_cbc (hctx : s.ctx = .cbc) (hi : i < (encryptOutput s).length) :
    (encryptOutput s)[i] =
      encryptBlock (xorBlock (messageBlock s i) (previous s.iv (encryptOutput s) i)) (expandKey s.key) := by
  have hi' : i < (windows (paddedMessage s)).length := hi.trans_eq (keepsLength_encryptChain s _)
  simp only [encryptOutput, encryptChain_cbc hctx, cbcEncrypt_get _ _ _ _ hi', windows_paddedMessage_get]

/-- Each ciphertext block is the chaining value of the next plaintext block (R168). -/
theorem previous_encryptOutput_succ (hctx : s.ctx = .cbc) (hi : i < (encryptOutput s).length) :
    previous s.iv (encryptOutput s) (i + 1) =
      encryptBlock (xorBlock (messageBlock s i) (previous s.iv (encryptOutput s) i)) (expandKey s.key) := by
  rw [previous_succ _ _ _ hi, encryptOutput_cbc hctx hi]

theorem decryptOutput_ecb (hctx : s.ctx = .ecb) (hmod : s.ilen.toNat % 16 = 0) (hi : i < (decryptOutput s).length) :
    (decryptOutput s)[i] = decryptBlock (ibufBlock s i) (expandKey s.key) := by
  simp only [decryptOutput, decryptChain_ecb hctx, ecbDecrypt, List.getElem_map, windows_ciphertext_get hmod]

/-- The chaining value of ciphertext block i in IBUF (R170). -/
def chainValue (s : State) : Nat → Block
  | 0 => s.iv
  | i + 1 => ibufBlock s i

/-- Block i of a CBC decryption of IBUF (R170). -/
def cbcPlain (s : State) (i : Nat) : Block := xorBlock (decryptBlock (ibufBlock s i) (expandKey s.key)) (chainValue s i)

theorem decryptOutput_cbc (hctx : s.ctx = .cbc) (hmod : s.ilen.toNat % 16 = 0) (hi : i < (decryptOutput s).length) :
    (decryptOutput s)[i] = cbcPlain s i := by
  have hi' : i < (windows (ciphertext s)).length := hi.trans_eq (keepsLength_decryptChain s _)
  have hprev : previous s.iv (windows (ciphertext s)) i = chainValue s i := by
    cases i with
    | zero => rfl
    | succ i => rw [previous_succ _ _ _ (Nat.lt_of_succ_lt hi'), windows_ciphertext_get hmod, chainValue]
  simp only [decryptOutput, decryptChain_cbc hctx, cbcDecrypt_get _ _ _ _ hi', windows_ciphertext_get hmod, hprev,
    cbcPlain]

/-! ## What stands in OBUF -/

theorem read_storeOutput_of_lt {out : List Byte} (h : j < out.length) :
    Memory.read (storeOutput out s).obuf j = out[j]? := by
  rw [storeOutput_obuf, Memory.read_writeBytes, if_pos (by omega), Nat.sub_zero]

theorem read_storeOutput_blockBytes {bs : List Block} (hi : i < bs.length) (hk : k < 16) :
    Memory.read (storeOutput (blockBytes bs) s).obuf (16 * i + k) = some bs[i][k] := by
  rw [read_storeOutput_of_lt (by rw [blockBytes_length]; omega), blockBytes_get bs i k hi hk]

theorem read_obuf_of_encrypt (hpass : checksPass .encrypt s = true) (h : exec .encrypt s = .next t)
    (hi : i < (encryptOutput s).length) (hk : k < 16) :
    Memory.read t.obuf (16 * i + k) = some (encryptOutput s)[i][k] := by
  rw [eq_passedResult hpass h, passedResult, succeed_obuf, read_storeOutput_blockBytes hi hk]

theorem read_obuf_of_decrypt (hpass : checksPass .decrypt s = true) (h : exec .decrypt s = .next t)
    (hi : i < (decryptOutput s).length) (hk : k < 16) :
    Memory.read t.obuf (16 * i + k) = some (decryptOutput s)[i][k] := by
  rw [eq_passedResult hpass h, passedResult, finishDecrypt_obuf, read_storeOutput_blockBytes hi hk]

theorem read_obuf_of_decrypt_cbc (hctx : s.ctx = .cbc) (hpass : checksPass .decrypt s = true)
    (h : exec .decrypt s = .next t) (hi : i < s.ilen.toNat / 16) (hk : k < 16) :
    Memory.read t.obuf (16 * i + k) = some (cbcPlain s i)[k] := by
  obtain ⟨-, -, hmod, -⟩ := (checksPass_decrypt s).1 hpass
  have hi : i < (decryptOutput s).length := by rwa [decryptOutput_length hmod]
  rw [read_obuf_of_decrypt hpass h hi hk, decryptOutput_cbc hctx hmod]

/-! ## The trailer -/

/-- The last p bytes are all p, with p in 1..16 (R153). -/
def HasTrailer (buf : List Byte) (p : Byte) : Prop :=
  1 ≤ p.toNat ∧ p.toNat ≤ 16 ∧ ∀ j, 1 ≤ j → j ≤ p.toNat → buf[buf.length - j]? = some p

theorem removePadding_of_hasTrailer {buf : List Byte} {p : Byte} (hlen : 16 ≤ buf.length) (h : HasTrailer buf p) :
    removePadding buf = .ok (buf.length - p.toNat) := by
  obtain ⟨hlo, hhi, htrailer⟩ := h
  refine removePadding_eq_ok_iff.2 ⟨p, hlo, hhi, by omega, List.ext_getElem? fun k => ?_⟩
  by_cases hk : k < p.toNat
  · have hindex : buf.length - p.toNat + k = buf.length - (p.toNat - k) := by omega
    rw [List.getElem?_drop, List.getElem?_replicate_of_lt hk, hindex, htrailer _ (by omega) (by omega)]
  · rw [List.getElem?_eq_none (by rw [List.length_drop]; omega),
      List.getElem?_eq_none (by rw [List.length_replicate]; omega)]

/-- The trailer that RemovePadding accepts is the one of the last byte. -/
theorem hasTrailer_of_removePadding {buf : List Byte} {m : Nat} {p : Byte} (hp : buf[buf.length - 1]? = some p)
    (h : removePadding buf = .ok m) : HasTrailer buf p := by
  obtain ⟨q, hq, hlo, hhi, hle, hall, -⟩ := removePadding_ok h
  obtain rfl : q = p := Option.some.inj (hq.symm.trans (List.getLast?_eq_getElem?.trans hp))
  refine ⟨hlo, hhi, fun j h1 hj => ?_⟩
  have hlt : buf.length - j < buf.length := by omega
  have hmem : buf[buf.length - j] ∈ buf.drop (buf.length - q.toNat) := by
    rw [List.mem_drop_iff_getElem]
    exact ⟨q.toNat - j, by omega, by congr 1; omega⟩
  rw [List.getElem?_eq_getElem hlt, eq_of_beq (List.all_eq_true.1 hall _ hmem)]

/-- A buffer with a trailer completes without error, its length the trailer's less (R166). -/
theorem finishDecrypt_of_hasTrailer {out : List Byte} {p : Byte} (hlen : out.length = s.ilen.toNat)
    (h16 : 16 ≤ out.length) (h : HasTrailer out p) :
    (finishDecrypt out s).status = statusAtSuccess ∧ (finishDecrypt out s).errcode = .ok ∧
      (finishDecrypt out s).olen.toNat = s.ilen.toNat - p.toNat := by
  have hfinish : finishDecrypt out s = succeed (BitVec.ofNat 32 (out.length - p.toNat)) (storeOutput out s) := by
    simp only [finishDecrypt, removePadding_of_hasTrailer h16 h]
  have hlt := s.ilen.isLt
  rw [hfinish]
  refine ⟨rfl, rfl, ?_⟩
  rw [succeed_olen, BitVec.toNat_ofNat, hlen]
  omega

theorem finishDecrypt_of_not_hasTrailer {out : List Byte} {p : Byte} (hp : out[out.length - 1]? = some p)
    (h : ¬HasTrailer out p) : finishDecrypt out s = fail .invalidPadding (storeOutput out s) := by
  rcases finishDecrypt_cases out s with ⟨-, hbad⟩ | ⟨m, hm, -⟩
  · exact hbad
  · exact absurd (hasTrailer_of_removePadding hp hm) h

/-- DECRYPT of whole blocks: the output blocks stand in OBUF, and a trailer of the last block is stripped. -/
theorem exec_decrypt_blocks (hpass : checksPass .decrypt s = true) {p : Nat → Block}
    (hp : ∀ i (hi : i < (decryptOutput s).length), (decryptOutput s)[i] = p i) :
    ∃ t, exec .decrypt s = .next t ∧
      (∀ i, i < s.ilen.toNat / 16 → ∀ k : Fin 16, Memory.read t.obuf (16 * i + k) = some (p i)[k]) ∧
      ∀ n : Byte, 1 ≤ n.toNat → n.toNat ≤ 16 →
        (∀ k : Fin 16, 16 - n.toNat ≤ k.val → (p (s.ilen.toNat / 16 - 1))[k] = n) →
        t.status = statusAtSuccess ∧ t.errcode = .ok ∧ t.olen.toNat = s.ilen.toNat - n.toNat := by
  obtain ⟨-, h0, hmod, -⟩ := (checksPass_decrypt s).1 hpass
  have hblocks := decryptOutput_length hmod
  have hbytes := blockBytes_decryptOutput_length hmod
  refine ⟨_, exec_of_checksPass hpass, fun i hi k => ?stored, fun n hlo hhi hlast => ?trailer⟩
  case stored =>
    have hi : i < (decryptOutput s).length := hblocks ▸ hi
    rw [read_obuf_of_decrypt hpass (exec_of_checksPass hpass) hi k.isLt, hp i hi]
    rfl
  case trailer =>
    refine finishDecrypt_of_hasTrailer hbytes (by omega) ⟨hlo, hhi, fun j h1 hj => ?_⟩
    have hindex : (blockBytes (decryptOutput s)).length - j = 16 * (s.ilen.toNat / 16 - 1) + (16 - j) := by omega
    have hi : s.ilen.toNat / 16 - 1 < (decryptOutput s).length := by omega
    rw [hindex, blockBytes_get _ _ _ hi (by omega), hp _ hi]
    exact congrArg some (hlast ⟨16 - j, by omega⟩ (Nat.sub_le_sub_left hj 16))

end Sys2Proof.Machine

/-! SUPPORT. The properties of the commands (45_mode_commands.md R172): decryption undoes encryption, what a completion
shows the host depends on the operands only, and how a change of a ciphertext block spreads (R170). -/

namespace Sys2Proof.Machine

variable {s t u : State} {c : Instr} {i j k : Nat}

/-! ## Decryption undoes encryption -/

theorem ecbDecrypt_ecbEncrypt (rk : KeySchedule) (bs : List Block) : ecbDecrypt rk (ecbEncrypt rk bs) = bs := by
  have hblock : (decryptBlock · rk) ∘ (encryptBlock · rk) = id := funext (decryptBlock_encryptBlock · rk)
  rw [ecbDecrypt, ecbEncrypt, List.map_map, hblock, List.map_id]

theorem cbcDecrypt_cbcEncrypt (rk : KeySchedule) (iv : Block) (bs : List Block) :
    cbcDecrypt rk iv (cbcEncrypt rk iv bs) = bs := by
  induction bs generalizing iv with
  | nil => rfl
  | cons b bs ih => simp only [cbcEncrypt, cbcDecrypt, decryptBlock_encryptBlock, xorBlock_cancel, ih]

theorem decryptChain_encryptChain (s : State) (bs : List Block) : decryptChain s (encryptChain s bs) = bs := by
  cases hctx : s.ctx with
  | none | ecb => simp only [decryptChain, encryptChain, hctx, ecbDecrypt_ecbEncrypt]
  | cbc => simp only [decryptChain, encryptChain, hctx, cbcDecrypt_cbcEncrypt]

/-- DECRYPT of what ENCRYPT stored, under the same context, gives the padded message. -/
theorem blockBytes_decryptOutput_of_ciphertext (h : SameContext s u) (hc : ciphertext u = blockBytes (encryptOutput s)) :
    blockBytes (decryptOutput u) = paddedMessage s := by
  have hmod : (paddedMessage s).length % 16 = 0 := (paddedMessage_length s).symm ▸ paddedLength_mod _
  rw [decryptOutput, hc, windows_blockBytes, decryptChain_congr h, encryptOutput, decryptChain_encryptChain,
    blockBytes_windows _ hmod]

theorem removePadding_paddedMessage (s : State) : removePadding (paddedMessage s) = .ok s.ilen.toNat := by
  have h := Proofs.unpadUndoesPad (ibufBytes s (inputLength s))
  rwa [ibufBytes_length] at h

/-- A ciphertext in IBUF that is the bytes of blocks. -/
theorem ciphertext_eq_blockBytes {bs : List Block} (hlen : (blockBytes bs).length = s.ilen.toNat)
    (hread : ∀ j, j < s.ilen.toNat → Memory.read s.ibuf j = (blockBytes bs)[j]?) : ciphertext s = blockBytes bs := by
  refine List.ext_getElem ((ciphertext_length s).trans hlen.symm) fun j h h' => ?_
  have hj : j < s.ilen.toNat := hlen ▸ h'
  have hbyte : ibufByte s j = (blockBytes bs)[j] := ibufByte_written ((hread j hj).trans (List.getElem?_eq_getElem h'))
  rw [← hbyte]
  exact Option.some.inj ((List.getElem?_eq_getElem h).symm.trans (ibufBytes_get s _ j hj))

/-! ## What a completion shows the host -/

/-- The host sees the same completion, and the context left is the same (R171, R172). -/
def SameShown (t v : State) : Prop := hostView t = hostView v ∧ t.key = v.key ∧ t.iv = v.iv

theorem sameShown_fail (h : SameContext u s) (e : ErrorKind) : SameShown (fail e s) (fail e u) := by
  obtain ⟨hkey, hiv, hctx⟩ := h
  exact ⟨by simp [hostView, outputBytes, hctx], hkey, hiv⟩

theorem sameShown_succeed (h : SameContext u s) {n : Word}
    (hread : ∀ j, j < n.toNat → Memory.read s.obuf j = Memory.read u.obuf j) :
    SameShown (succeed n s) (succeed n u) := by
  obtain ⟨hkey, hiv, hctx⟩ := h
  have hout : outputBytes (succeed n s) = outputBytes (succeed n u) :=
    List.map_congr_left fun j hj => hread j (List.mem_range.1 hj)
  exact ⟨by simp [hostView, hout, hctx], hkey, hiv⟩

theorem sameShown_succeed_setContext (key iv : Block) (ctx : Ctx) :
    SameShown (succeed 0 (setContext key iv ctx s)) (succeed 0 (setContext key iv ctx u)) :=
  sameShown_succeed ⟨rfl, rfl, rfl⟩ fun j hj => absurd hj (Nat.not_lt_zero j)

theorem sameShown_succeed_storeOutput (h : SameContext u s) {out : List Byte} {n : Word} (hn : n.toNat ≤ out.length) :
    SameShown (succeed n (storeOutput out s)) (succeed n (storeOutput out u)) := by
  refine sameShown_succeed (s := storeOutput out s) (u := storeOutput out u) h fun j hj => ?_
  rw [read_storeOutput_of_lt (hj.trans_le hn), read_storeOutput_of_lt (hj.trans_le hn)]

theorem sameShown_finishDecrypt (h : SameContext u s) (out : List Byte) :
    SameShown (finishDecrypt out s) (finishDecrypt out u) := by
  unfold finishDecrypt
  split
  · exact sameShown_fail h _
  · rename_i m hm
    refine sameShown_succeed_storeOutput h ?_
    have hle : (BitVec.ofNat 32 m).toNat ≤ m := by simpa using Nat.mod_le m _
    have hlt := (removePadding_le hm).1
    omega

/-- The operands of command `c` (30_encoding.md R82, 20_memory.md R61) are the same in both states. -/
structure SameOperands (c : Instr) (s u : State) : Prop where
  context : SameContext u s
  klen : s.klen = u.klen
  vlen : s.vlen = u.vlen
  ilen : s.ilen = u.ilen
  xlen : s.xlen = u.xlen
  cap : s.cap = u.cap
  input : checksPass c s = true → ∀ j, j < inputSize c s → ibufByte s j = ibufByte u j

theorem SameOperands.checksPass_iff (h : SameOperands c s u) : checksPass c s = true ↔ checksPass c u = true := by
  obtain ⟨⟨-, -, hctx⟩, hklen, hvlen, hilen, hxlen, hcap, -⟩ := h
  cases c with
  | initEcb => simp only [checksPass_initEcb, hklen]
  | initCbc => simp only [checksPass_initCbc, hklen, hvlen]
  | encrypt => simp only [checksPass_encrypt, hctx, hilen, hxlen, hcap]
  | decrypt => simp only [checksPass_decrypt, hctx, hilen, hcap]

theorem SameOperands.firstError_eq (h : SameOperands c s u) : firstError c s = firstError c u := by
  have hctx : s.ctx = u.ctx := h.context.2.2
  have hilen : inputLength s = inputLength u := congrArg BitVec.toNat h.ilen
  have hxlen : expectedLength s = expectedLength u := congrArg BitVec.toNat h.xlen
  cases c with
  | initEcb | initCbc => rfl
  | encrypt => simp only [firstError, hctx, hilen, hxlen]
  | decrypt => simp only [firstError, hctx, hilen]

theorem ibufBlock_congr (h : ∀ k, k < 16 → ibufByte s (16 * i + k) = ibufByte u (16 * i + k)) :
    ibufBlock s i = ibufBlock u i :=
  Vector.ext fun k hk => by rw [ibufBlock_get s i hk, ibufBlock_get u i hk, h k hk]

theorem ibufBytes_congr {n : Nat} (h : ∀ j, j < n → ibufByte s j = ibufByte u j) : ibufBytes s n = ibufBytes u n :=
  List.map_congr_left fun j hj => h j (List.mem_range.1 hj)

/-- Once the checks have passed, the result depends on the operands only. -/
theorem SameOperands.sameShown_passedResult (h : SameOperands c s u) (hpass : checksPass c s = true) :
    SameShown (passedResult c s) (passedResult c u) := by
  have hinput := h.input hpass
  have hblock (i : Nat) (hi : 16 * i + 16 ≤ inputSize c s) : ibufBlock s i = ibufBlock u i :=
    ibufBlock_congr fun k hk => hinput _ (by omega)
  have hilen : inputLength s = inputLength u := congrArg BitVec.toNat h.ilen
  cases c with
  | initEcb =>
    have hkey : keyOperand s = keyOperand u := hblock 0 (show 16 ≤ 16 by decide)
    rw [passedResult, passedResult, hkey]
    exact sameShown_succeed_setContext _ _ _
  | initCbc =>
    have hkey : keyOperand s = keyOperand u := hblock 0 (show 16 ≤ 32 by decide)
    have hiv : ivOperand s = ivOperand u := hblock 1 (show 32 ≤ 32 by decide)
    rw [passedResult, passedResult, hkey, hiv]
    exact sameShown_succeed_setContext _ _ _
  | encrypt =>
    have hbytes : ibufBytes s (inputLength s) = ibufBytes u (inputLength s) := ibufBytes_congr hinput
    have hout : encryptOutput s = encryptOutput u := by
      rw [encryptOutput, encryptOutput, encryptChain_congr h.context, paddedMessage, paddedMessage, hbytes, hilen]
    obtain ⟨-, hx, -⟩ := (checksPass_encrypt s).1 hpass
    have hmod := paddedLength_mod s.ilen.toNat
    rw [passedResult, passedResult, ← hout, ← h.xlen]
    exact sameShown_succeed_storeOutput h.context (by rw [blockBytes_length, encryptOutput_length]; omega)
  | decrypt =>
    have hbytes : ibufBytes s (inputLength s) = ibufBytes u (inputLength s) := ibufBytes_congr hinput
    have hout : decryptOutput s = decryptOutput u := by
      rw [decryptOutput, decryptOutput, decryptChain_congr h.context, ciphertext, ciphertext, hbytes, hilen]
    rw [passedResult, passedResult, ← hout]
    exact sameShown_finishDecrypt h.context _

theorem SameOperands.sameShown (h : SameOperands c s u) {v : State} (ht : exec c s = .next t)
    (hv : exec c u = .next v) : SameShown t v := by
  by_cases hpass : checksPass c s = true
  · rw [eq_passedResult hpass ht, eq_passedResult (h.checksPass_iff.1 hpass) hv]
    exact h.sameShown_passedResult hpass
  · rw [exec_of_not_checksPass hpass] at ht
    rw [exec_of_not_checksPass (mt h.checksPass_iff.2 hpass), ← h.firstError_eq] at hv
    cases ht
    cases hv
    exact sameShown_fail h.context _

/-! ## The spread of a change under CBC -/

theorem chainValue_congr (hiv : u.iv = s.iv) (hprev : ∀ m, i = m + 1 → ibufBlock u m = ibufBlock s m) :
    chainValue u i = chainValue s i := by
  cases i with
  | zero => exact hiv
  | succ m => exact hprev m rfl

/-- Plaintext block i is the same when ciphertext block i and its chaining value are. -/
theorem cbcPlain_congr (hkey : u.key = s.key) (hchain : chainValue u i = chainValue s i)
    (hi : ibufBlock u i = ibufBlock s i) : cbcPlain u i = cbcPlain s i := by
  rw [cbcPlain, cbcPlain, hkey, hi, hchain]

/-- A change of ciphertext block i is XORed into plaintext block i + 1. -/
theorem cbcPlain_succ_xor {d : Block} (hkey : u.key = s.key) (hnext : ibufBlock u (i + 1) = ibufBlock s (i + 1))
    (hd : ibufBlock u i = xorBlock (ibufBlock s i) d) : cbcPlain u (i + 1) = xorBlock (cbcPlain s (i + 1)) d := by
  refine Vector.ext fun k hk => ?_
  simp only [cbcPlain, chainValue, hkey, hnext, hd, xorBlock_get, BitVec.xor_assoc]

theorem xorBlock_left_injective (y : Block) : Function.Injective (xorBlock · y) :=
  Function.LeftInverse.injective (g := (xorBlock · y)) (xorBlock_cancel · y)

theorem decryptBlock_injective (rk : KeySchedule) : Function.Injective (decryptBlock · rk) :=
  Function.LeftInverse.injective (g := (encryptBlock · rk)) (encryptBlock_decryptBlock · rk)

theorem eq_zeroBlock_of_xorBlock_eq {x d : Block} (h : xorBlock x d = x) : d = zeroBlock := by
  refine Vector.ext fun k hk => ?_
  have hbyte : x[k] ^^^ d[k] = x[k] := by rw [← xorBlock_get x d k hk, h]
  have hd : d[k] = 0 := by simpa using hbyte
  rw [hd, zeroBlock_eq, Vector.getElem_ofFn]

/-- A nonzero change of ciphertext block i changes plaintext block i. -/
theorem cbcPlain_ne {d : Block} (hkey : u.key = s.key) (hchain : chainValue u i = chainValue s i)
    (hd : ibufBlock u i = xorBlock (ibufBlock s i) d) (hne : d ≠ zeroBlock) : cbcPlain u i ≠ cbcPlain s i := by
  intro h
  rw [cbcPlain, cbcPlain, hkey, hchain, hd] at h
  exact hne (eq_zeroBlock_of_xorBlock_eq (decryptBlock_injective _ (xorBlock_left_injective _ h)))

end Sys2Proof.Machine

/-! PROOFS. The statements about the mode commands (45_mode_commands.md). -/

namespace Sys2Proof.Proofs

open Sys2Proof.Machine

/-- Settles O4: the turn is the core's, and Complete decodes the word in CMDR. -/
theorem stepRunsTheDecodedCommand : Obligations.StepRunsTheDecodedCommand := by
  refine ⟨fun s i hb hd ht => ?last, fun s i rest hb hd ht => ?turn, fun s e hb hd ht => ?lastIllegal,
    fun s e rest hb hd ht => ?turnIllegal, fun s rest hb ht => ?idle, fun s i => ?placed⟩
  case last => rw [step_of_turns_nil_busy ht hb, complete_of_decode_ok hd]
  case turn => exact (step_of_turns_core_busy ht hb).trans (complete_of_decode_ok hd)
  case lastIllegal => exact ⟨s.fresh, (step_of_turns_nil_busy ht hb).trans (complete_of_decode_error hd)⟩
  case turnIllegal => exact ⟨s.fresh, (step_of_turns_core_busy ht hb).trans (complete_of_decode_error hd)⟩
  case idle => exact (step_of_turns_core ht).trans (coreTurn_idle hb)
  case placed =>
    have hrun : complete (issue (encode i) s) = exec i (issue (encode i) s) := complete_of_decode_ok (decode_encode i)
    exact (step_withFetchWord s (encode i)).trans hrun

/-- Settles O6: an issue sets BUSY, and while BUSY = 1 every OBUF location reads as a free byte. -/
theorem writeToCmdIssues : Obligations.WriteToCmdIssues := by
  intro s w
  refine ⟨fun hb => ?idle, hostWrite_busy _ w s⟩
  case idle =>
    have hissue : hostWrite 0x00000000 w s = issue w s := by simp [hostWrite, hb]
    rw [hissue]
    exact ⟨rfl, fun i hi => (hostReadValue_obuf_at (s := issue w s) hi).trans (if_pos rfl)⟩

/-- Settles O7: each case of what a completed command can have done. -/
theorem everyCommandCompletes : Obligations.EveryCommandCompletes := by
  intro i s
  obtain ⟨t, ht, hc⟩ := exec_completed i s
  refine ⟨t, ht, hc.status.1, hc.status.2, ?_⟩
  cases hc with
  | failed | badPadding => simp [statusAtError]
  | ecb | cbc => simp [statusAtSuccess]
  | encrypted hi | decrypted hi => simp [statusAtSuccess, hi]

/-- Settles O17: each operation is dropped or touches the port only, by induction on their list. -/
theorem hostCannotDisturbACommandInFlight : Obligations.HostCannotDisturbACommandInFlight :=
  fun ops _ => foldl_hostStep_differsAtPort ops

/-- Settles O20: the check on KLEN decides, and no host write reaches KEY. -/
theorem initEcbConstructsTheContext : Obligations.InitEcbConstructsTheContext := by
  refine ⟨decode_encode .initEcb, fun s i v => (hostWrite_written _ v s).sameContext.1,
    fun s => ⟨fun h => ⟨s.fresh, ?ok⟩, fun h => ⟨s.fresh, ?violation⟩⟩⟩
  case ok =>
    rw [exec_of_checksPass ((checksPass_initEcb s).2 h), passedResult, keyOperand_eq, zeroBlock_eq]
    rfl
  case violation => exact exec_of_not_checksPass (mt (checksPass_initEcb s).1 h)

/-- Settles O21: the checks on KLEN and VLEN decide, and a message command keeps the context. -/
theorem initCbcConstructsTheContext : Obligations.InitCbcConstructsTheContext := by
  refine ⟨decode_encode .initCbc, fun i s t hi h => ((exec_cases h).sameContext hi).2.1,
    fun s => ⟨fun h => ⟨s.fresh, ?ok⟩, fun h => ⟨s.fresh, ?violation⟩⟩⟩
  case ok =>
    rw [exec_of_checksPass ((checksPass_initCbc s).2 h), passedResult, keyOperand_eq]
    rfl
  case violation => exact exec_of_not_checksPass (mt (checksPass_initCbc s).1 (not_and_or.2 h))

/-- Settles O25: the padded length is 2^32 or more, so the first length check fails. -/
theorem lengthsNearTheTopNeverMatch : Obligations.LengthsNearTheTopNeverMatch := by
  intro s hctx hilen
  have hx : expectedLength s ≠ paddedLength (inputLength s) := by
    have hlt := s.xlen.isLt
    rw [paddedLength_eq, expectedLength, inputLength]
    omega
  have hpass : ¬checksPass .encrypt s = true := fun h => hx ((checksPass_encrypt s).1 h).2.1
  refine ⟨_, exec_of_not_checksPass hpass, ?_⟩
  rw [fail_errcode, firstError, if_neg hctx, if_pos hx]

/-- Settles O26: block i of the output is the encrypted block i of the padded message. -/
theorem ecbEncryptsEveryBlock : Obligations.EcbEncryptsEveryBlock := by
  intro s hctx hx hcap
  have hpass : checksPass .encrypt s = true := (checksPass_encrypt s).2 ⟨by simp [hctx], hx, hcap⟩
  refine ⟨_, exec_of_checksPass hpass, rfl, rfl, rfl, fun i hi k => ?_⟩
  have hi : i < (encryptOutput s).length := by rwa [encryptOutput_length, ← hx]
  rw [read_obuf_of_encrypt hpass (exec_of_checksPass hpass) hi k.isLt, encryptOutput_ecb hctx hi]
  rfl

/-- Settles O27: block i of the output is the chaining value of block i + 1, and the IV is that of block 0. -/
theorem cbcEncryptChainsTheCiphertext : Obligations.CbcEncryptChainsTheCiphertext := by
  intro s p hctx hx hcap hp
  have hpass : checksPass .encrypt s = true := (checksPass_encrypt s).2 ⟨by simp [hctx], hx, hcap⟩
  have hlen : (encryptOutput s).length = s.xlen.toNat / 16 := by rw [encryptOutput_length, hx]
  have hpos : 0 < s.xlen.toNat / 16 := by
    rw [hx, paddedLength_eq]
    omega
  obtain rfl : p = messageBlock s := funext hp
  refine ⟨_, exec_of_checksPass hpass, rfl, rfl, rfl, fun i => previous s.iv (encryptOutput s) (i + 1),
    previous_encryptOutput_succ hctx (hlen ▸ hpos), fun i hi => previous_encryptOutput_succ hctx (hlen ▸ hi),
    fun i hi k => ?stored⟩
  case stored =>
    have hi : i < (encryptOutput s).length := hlen ▸ hi
    rw [read_obuf_of_encrypt hpass (exec_of_checksPass hpass) hi k.isLt, ← previous_succ s.iv _ i hi]
    rfl

/-- Settles O28: block i of the output is the decrypted block i of IBUF. -/
theorem ecbDecryptsEveryBlock : Obligations.EcbDecryptsEveryBlock := by
  intro s c p hctx h0 hmod hcap hc hp
  have hpass : checksPass .decrypt s = true := (checksPass_decrypt s).2 ⟨by simp [hctx], h0, hmod, hcap⟩
  refine exec_decrypt_blocks hpass fun i hi => ?_
  rw [decryptOutput_ecb hctx hmod hi, hp, hc]
  rfl

/-- Settles O29: `p` is the unchained decryption of IBUF, block by block. -/
theorem cbcDecryptChainsTheCiphertext : Obligations.CbcDecryptChainsTheCiphertext := by
  intro s c p hctx h0 hmod hcap hc hfirst hnext
  have hpass : checksPass .decrypt s = true := (checksPass_decrypt s).2 ⟨by simp [hctx], h0, hmod, hcap⟩
  have hc : c = ibufBlock s := funext hc
  have hp : p = cbcPlain s := by
    funext i
    cases i with
    | zero => rw [hfirst, hc]; rfl
    | succ i => rw [hnext, hc]; rfl
  exact exec_decrypt_blocks hpass fun i hi => by rw [decryptOutput_cbc hctx hmod hi, hp]

/-- Settles O30: the bytes that RemovePadding looks at are the ones read back from OBUF. -/
theorem decryptChecksTheTrailer : Obligations.DecryptChecksTheTrailer := by
  intro s hctx h0 hmod hcap
  have hpass : checksPass .decrypt s = true := (checksPass_decrypt s).2 ⟨hctx, h0, hmod, hcap⟩
  have hlen := blockBytes_decryptOutput_length hmod
  have hread (j : Nat) (h1 : 1 ≤ j) : Memory.read (passedResult .decrypt s).obuf (s.ilen.toNat - j) =
      (blockBytes (decryptOutput s))[(blockBytes (decryptOutput s)).length - j]? := by
    rw [passedResult, finishDecrypt_obuf, read_storeOutput_of_lt (by omega), hlen]
  obtain ⟨p, hp⟩ : ∃ p, (blockBytes (decryptOutput s))[(blockBytes (decryptOutput s)).length - 1]? = some p :=
    ⟨_, List.getElem?_eq_getElem (by omega)⟩
  refine ⟨_, p, exec_of_checksPass hpass, (hread 1 le_rfl).trans hp, fun ⟨hlo, hhi, hall⟩ => ?valid,
    fun hbad => ?invalid⟩
  case valid =>
    exact finishDecrypt_of_hasTrailer hlen (by omega)
      ⟨hlo, hhi, fun j h1 hj => (hread j h1).symm.trans (hall j h1 hj)⟩
  case invalid =>
    have hnone : ¬HasTrailer (blockBytes (decryptOutput s)) p := fun ⟨hlo, hhi, hall⟩ =>
      hbad ⟨hlo, hhi, fun j h1 hj => (hread j h1).trans (hall j h1 hj)⟩
    rw [passedResult, finishDecrypt_of_not_hasTrailer hp hnone]
    exact ⟨rfl, rfl, rfl⟩

/-- Settles O35: the ciphertext decrypts to the padded message, which unpads to the message's length. -/
theorem decryptUndoesEncrypt : Obligations.DecryptUndoesEncrypt := by
  intro s t u ht he hctx hkey hiv hcap hilen hibuf
  have hpass := checksPass_of_success ht he
  obtain ⟨hnone, hx, hfits⟩ := (checksPass_encrypt s).1 hpass
  have holen : t.olen = s.xlen := ((exec_cases ht).olen_of_encrypt he).1
  have hmod := paddedLength_mod s.ilen.toNat
  have heq := paddedLength_eq s.ilen.toNat
  have hlen : (blockBytes (encryptOutput s)).length = u.ilen.toNat := by
    rw [hilen, holen, blockBytes_length, encryptOutput_length]
    omega
  have hcipher : ciphertext u = blockBytes (encryptOutput s) := ciphertext_eq_blockBytes hlen fun j hj => by
    rw [hibuf j (hilen ▸ hj), eq_passedResult hpass ht, passedResult, succeed_obuf, read_storeOutput_of_lt (hlen ▸ hj)]
  have hbytes := blockBytes_decryptOutput_of_ciphertext ⟨hkey, hiv, hctx⟩ hcipher
  have hpassU : checksPass .decrypt u = true := by
    rw [checksPass_decrypt, hctx, hilen, holen, hcap]
    exact ⟨hnone, by omega, by omega, by omega⟩
  have hv : passedResult .decrypt u = succeed s.ilen (storeOutput (paddedMessage s) u) := by
    simp only [passedResult, hbytes, finishDecrypt, removePadding_paddedMessage, BitVec.ofNat_toNat, BitVec.setWidth_eq]
  refine ⟨_, exec_of_checksPass hpassU, ?_⟩
  rw [hv]
  refine ⟨rfl, rfl, rfl, fun i hi => ?_⟩
  have hlt : i < paddedLength (inputLength s) := by rw [inputLength]; omega
  rw [succeed_obuf, read_storeOutput_of_lt (by rwa [paddedMessage_length]), paddedMessage_get s i hlt, inputLength,
    if_pos hi]

/-- Settles O36: the checks, the first error and the result of passed checks are functions of the operands. -/
theorem commandsDependOnTheirOperandsOnly : Obligations.CommandsDependOnTheirOperandsOnly :=
  fun _ _ _ _ _ hctx hkey hiv hklen hvlen hilen hxlen hcap hinput ht hv =>
    SameOperands.sameShown ⟨⟨hkey, hiv, hctx⟩, hklen, hvlen, hilen, hxlen, hcap, hinput⟩ ht hv

/-- Settles O37: block i of the output is a function of KEY and of block i of the padded message. -/
theorem ecbEqualBlocksGiveEqualBlocks : Obligations.EcbEqualBlocksGiveEqualBlocks := by
  intro s u t v i j hs hu hkey ht hv het hev hi hj hequal k hk
  have hpassS := checksPass_of_success ht het
  have hpassU := checksPass_of_success hv hev
  rw [((checksPass_encrypt s).1 hpassS).2.1] at hi
  rw [((checksPass_encrypt u).1 hpassU).2.1] at hj
  have hblock : messageBlock s i = messageBlock u j := Vector.ext fun k hk => Option.some.inj <| by
    rw [← paddedMessage_block_get hi hk, hequal k hk, paddedMessage_block_get hj hk]
  have hi : i < (encryptOutput s).length := by rwa [encryptOutput_length]
  have hj : j < (encryptOutput u).length := by rwa [encryptOutput_length]
  rw [read_obuf_of_encrypt hpassS ht hi hk, read_obuf_of_encrypt hpassU hv hj hk, encryptOutput_ecb hs hi,
    encryptOutput_ecb hu hj, hkey, hblock]

/-- Settles O38: plaintext block i depends on ciphertext block i and, through its chaining value, on the one before, and
DecryptBlock is injective. -/
theorem cbcChangePropagatesToTwoBlocks : Obligations.CbcChangePropagatesToTwoBlocks := by
  intro s u t v j d hs hu hkey hiv hilen hcap h0 hmod hfits hj hchange hsame ht hv
  have hpassS : checksPass .decrypt s = true := (checksPass_decrypt s).2 ⟨by simp [hs], h0, hmod, hfits⟩
  have hpassU : checksPass .decrypt u = true := by
    rw [checksPass_decrypt, hilen, hcap]
    exact ⟨by simp [hu], h0, hmod, hfits⟩
  have hreadS {i k : Nat} (hi : i < s.ilen.toNat / 16) (hk : k < 16) := read_obuf_of_decrypt_cbc hs hpassS ht hi hk
  have hreadU {i k : Nat} (hi : i < s.ilen.toNat / 16) (hk : k < 16) :=
    read_obuf_of_decrypt_cbc hu hpassU hv (hilen ▸ hi) hk
  have hblock {i : Nat} (hi : i < s.ilen.toNat / 16) (hij : i ≠ j) : ibufBlock u i = ibufBlock s i :=
    ibufBlock_congr fun k hk => hsame _ (by omega) (by omega)
  have hchain {i : Nat} (hi : i < s.ilen.toNat / 16) (hij : i ≠ j + 1) : chainValue u i = chainValue s i :=
    chainValue_congr hiv fun m hm => hblock (by omega) (by omega)
  have hblockJ : ibufBlock u j = xorBlock (ibufBlock s j) d := by
    refine Vector.ext fun k hk => ?_
    rw [xorBlock_get _ _ k hk, ibufBlock_get u j hk, ibufBlock_get s j hk]
    exact hchange ⟨k, hk⟩
  refine ⟨fun n hn hnj hnj' => ?others, fun hnext k => ?next, fun hd => ?own⟩
  case others =>
    have hindex : n = 16 * (n / 16) + n % 16 := by omega
    have hi : n / 16 < s.ilen.toNat / 16 := by omega
    have hk : n % 16 < 16 := by omega
    have hplain : cbcPlain u (n / 16) = cbcPlain s (n / 16) :=
      cbcPlain_congr hkey (hchain hi hnj') (hblock hi hnj)
    rw [hindex, hreadU hi hk, hreadS hi hk, hplain]
  case next =>
    refine ⟨_, hreadS hnext k.isLt, ?_⟩
    rw [hreadU hnext k.isLt, cbcPlain_succ_xor hkey (hblock hnext (by omega)) hblockJ, xorBlock_get]
    rfl
  case own =>
    by_contra! hnone
    refine cbcPlain_ne hkey (hchain hj (by omega)) hblockJ hd (Vector.ext fun k hk => ?_)
    exact Option.some.inj ((hreadU hj hk).symm.trans ((hnone ⟨k, hk⟩).trans (hreadS hj hk)))

/-- Settles O42: of the events of a step only a successful INIT and a reset write the context. -/
theorem onlyInitAndResetWriteTheContext : Obligations.OnlyInitAndResetWriteTheContext := by
  intro s t h hchanged
  have hdiff : ¬SameContext s t := by simp only [SameContext]; tauto
  cases step_cases h with
  | idle => exact absurd ⟨rfl, rfl, rfl⟩ hdiff
  | core ts _ hb hc => exact .inl ⟨hb, (complete_sameContext_or_init hc).resolve_left hdiff⟩
  | host op rest ts hh =>
    obtain rfl : op = .reset := by_contra fun hop => hdiff (hostStep_sameContext hop)
    exact .inr ⟨rest, hh, rfl, rfl⟩

end Sys2Proof.Proofs

/-! SUPPORT. Errors, pins and what a read can show (60_exceptions.md): the words that are no command, the reads on which
the results have no bearing, how a completion fails, and what a command finds when it is issued again. -/

namespace Sys2Proof.Machine

variable {s t : State} {a : Word} {c : Instr}

/-! ## Illegal words -/

/-- A command word is one of 1 to 4 (R81), so a word outside them is no command (R205). -/
theorem exists_decode_error {w : Word} (h : w.toNat / 256 ≠ 0 ∨ w.toNat % 256 = 0 ∨ 4 < w.toNat % 256) :
    ∃ e, decode w = .error e := by
  cases hdec : decode w with
  | error e => exact ⟨e, rfl⟩
  | ok i =>
    obtain rfl := decode_eq_ok_iff.1 hdec
    exact absurd h (by cases i <;> decide)

/-! ## What a read does not show -/

/-- While BUSY = 0 a read of OBUF sees the bytes below OLEN only. -/
theorem readObuf_congr {m : Memory} (h : ∀ j, j < s.olen.toNat → Memory.read m j = Memory.read s.obuf j) (j : Nat) :
    readObuf { s with obuf := m } j = readObuf s j :=
  ite_congr rfl (fun hj => congrArg (fun x : Option Byte => byteWord (x.getD _)) (h j hj)) fun _ => rfl

theorem hostReadValue_congr_obuf {m : Memory}
    (h : ∀ j, j < s.olen.toNat → Memory.read m j = Memory.read s.obuf j) :
    hostReadValue { s with obuf := m } a = hostReadValue s a := by
  have hobuf := readObuf_congr h
  unfold hostReadValue
  rw [hobuf]
  rfl

theorem hostReadValue_obuf_busy (hb : s.status.busy = true) (ha : inObuf s a.toNat = true) :
    hostReadValue s a = byteWord (freeByte s) :=
  (hostReadValue_obuf s a ha).trans (if_pos hb)

/-- While BUSY = 1 every location that shows a result reads as a free value (R56). -/
theorem hostReadValue_congr_results_busy (hb : s.status.busy = true) (m : Memory) (n : Word) (e : ErrCode) (x : Ctx) :
    hostReadValue { s with obuf := m, olen := n, errcode := e, ctx := x } a = hostReadValue s a := by
  by_cases hobuf : inObuf s a.toNat = true
  · rw [hostReadValue_obuf_busy hb hobuf]
    exact hostReadValue_obuf_busy hb hobuf
  · by_cases hreg : a.toNat = 2 ∨ a.toNat = 3 ∨ a.toNat = 8
    · rcases hreg with h | h | h <;> simp [hostReadValue, inIbuf, hb, h]
    · obtain ⟨herr, hctx, holen⟩ : a.toNat ≠ 2 ∧ a.toNat ≠ 3 ∧ a.toNat ≠ 8 := by tauto
      rw [inObuf] at hobuf
      simp [hostReadValue, inIbuf, inObuf, readIbuf, freeByte, hobuf, herr, hctx, holen]

/-! ## STATUS and the pins -/

/-- STATUS bits 0, 1, 2 are BUSY, DONE, ERR (R24). -/
theorem statusWord_bits (x : Status) :
    (statusWord x).getLsbD 0 = x.busy ∧ (statusWord x).getLsbD 1 = x.done ∧ (statusWord x).getLsbD 2 = x.err := by
  obtain ⟨b, d, e⟩ := x
  cases b <;> cases d <;> cases e <;> decide

/-! ## Failing completions -/

/-- A command that fails has stored nothing, unless it is DECRYPT and the padding is bad (R201, R206). -/
theorem Completed.eq_fail (h : Completed c s t) {k : ErrorKind} (hk : t.errcode = .failed k) :
    (k ≠ .invalidPadding ∧ t = fail k s) ∨
      (k = .invalidPadding ∧ c = .decrypt ∧ ∃ out, t = fail .invalidPadding (storeOutput out s)) := by
  cases h with
  | failed k' hne =>
    cases hk
    exact .inl ⟨hne, rfl⟩
  | badPadding hi out =>
    cases hk
    exact .inr ⟨rfl, hi, out, rfl⟩
  | ecb | cbc | encrypted | decrypted => cases hk

/-! ## A failed command issued again -/

/-- Storing the same bytes again changes no byte. -/
theorem Memory.read_writeBytes_writeBytes (m : Memory) (i : Nat) (bs : List Byte) (j : Nat) :
    Memory.read (Memory.writeBytes (Memory.writeBytes m i bs) i bs) j = Memory.read (Memory.writeBytes m i bs) j := by
  simp only [Memory.read_writeBytes]
  split <;> rfl

/-- A failure leaves every operand as at issue (R206), and an issue writes none (R160). -/
theorem Completed.sameOperands_issue (h : Completed c s t) {k : ErrorKind} (hk : t.errcode = .failed k) (w : Word) :
    SameOperands c s (issue w t) := by
  rcases h.eq_fail hk with ⟨-, rfl⟩ | ⟨-, -, out, rfl⟩ <;>
    exact ⟨⟨rfl, rfl, rfl⟩, rfl, rfl, rfl, rfl, rfl, fun _ _ _ => rfl⟩

theorem Completed.decryptOutput_issue (h : Completed c s t) {k : ErrorKind} (hk : t.errcode = .failed k) (w : Word) :
    decryptOutput (issue w t) = decryptOutput s := by
  rcases h.eq_fail hk with ⟨-, rfl⟩ | ⟨-, -, out, rfl⟩ <;> rfl

/-- No check made before the command runs reports InvalidPadding (R207). -/
theorem firstError_ne_invalidPadding (c : Instr) (s : State) : firstError c s ≠ .invalidPadding := by
  cases c with
  | initEcb | initCbc => simp [firstError]
  | encrypt | decrypt => simp only [firstError]; split_ifs <;> simp

theorem checksPass_of_invalidPadding (h : exec c s = .next t) (hk : t.errcode = .failed .invalidPadding) :
    checksPass c s = true := by
  by_contra hpass
  rw [exec_of_not_checksPass hpass] at h
  cases h
  exact firstError_ne_invalidPadding c s (ErrCode.failed.inj hk)

/-- After InvalidPadding the decrypted blocks stand in OBUF (R201). -/
theorem obuf_of_invalidPadding (h : exec c s = .next t) (hk : t.errcode = .failed .invalidPadding) :
    t.obuf = Memory.writeBytes s.obuf 0 (blockBytes (decryptOutput s)) := by
  rcases (exec_cases h).eq_fail hk with ⟨hne, -⟩ | ⟨-, rfl, -⟩
  · exact absurd rfl hne
  · rw [eq_passedResult (checksPass_of_invalidPadding h hk) h, passedResult, finishDecrypt_obuf, storeOutput_obuf]

/-- Issued again, a failed command leaves in OBUF what it left the first time. -/
theorem read_obuf_of_failed_again {u : State} {k : ErrorKind} {w : Word} (ht : exec c s = .next t)
    (hk : t.errcode = .failed k) (hu : exec c (issue w t) = .next u) (hku : u.errcode = .failed k) (j : Nat) :
    Memory.read u.obuf j = Memory.read t.obuf j := by
  rcases (exec_cases hu).eq_fail hku with ⟨-, rfl⟩ | ⟨rfl, -, -⟩
  · rfl
  · rw [obuf_of_invalidPadding hu hku, (exec_cases ht).decryptOutput_issue hk, issue_obuf, obuf_of_invalidPadding ht hk,
      Memory.read_writeBytes_writeBytes]

end Sys2Proof.Machine

/-! PROOFS. The statements about errors, pins and reads (60_exceptions.md). -/

namespace Sys2Proof.Proofs

open Sys2Proof.Machine

/-- Settles O3: the word decodes to no command, and no read looks at CMDR. -/
theorem illegalWordFailsAndChangesNothingElse : Obligations.IllegalWordFailsAndChangesNothingElse := by
  refine ⟨fun s h => ⟨s.fresh, ?fails⟩, fun s w a => rfl⟩
  obtain ⟨e, he⟩ := exists_decode_error h
  exact complete_of_decode_error he

/-- Settles O15: a read of OBUF sees the bytes below OLEN, and while BUSY = 1 no result at all. -/
theorem readsRevealNoKeyAndNoResidue : Obligations.ReadsRevealNoKeyAndNoResidue :=
  ⟨fun s key iv cmdr _ _ h => hostReadValue_congr_obuf (s := { s with key := key, iv := iv, cmdr := cmdr }) h,
    fun _ m n e c _ hb => hostReadValue_congr_results_busy hb m n e c⟩

/-- Settles O16: `done` and `err` follow STATUS, which an event changes only at a completion, an issue or a reset; a
command in flight has DONE = ERR = 0 by the invariant, so its completion lets neither fall. -/
theorem pinsMirrorStatus : Obligations.PinsMirrorStatus := by
  refine ⟨fun s => statusWord_bits s.status, ⟨rfl, rfl, rfl⟩, fun s t h hrise => ?rise, fun s t hinv h hfall => ?fall⟩
  case rise =>
    simp only [pinDone, pinErr, pinBusy] at hrise ⊢
    cases step_event h with
    | quiet => simp at hrise
    | completed i ts _ hb hc => exact ⟨hb, hc.status.1⟩
    | write a v rest ts _ hh hw =>
      rcases hw.issue_or_sameResult with ⟨-, -, rfl⟩ | ⟨hst, -, -⟩
      · simp [statusAtIssue] at hrise
      · simp [hst] at hrise
    | reset rest ts hh => simp at hrise
  case fall =>
    simp only [pinDone, pinErr] at hfall
    cases step_event h with
    | quiet => simp at hfall
    | completed i ts _ hb hc =>
      have hdone : ¬s.status.done = true := fun hd => hinv.busy_or_done ⟨hb, hd⟩
      have herr : ¬s.status.err = true := mt hinv.err_done hdone
      simp [hdone, herr] at hfall
    | write a v rest ts _ hh hw =>
      rcases hw.issue_or_sameResult with ⟨-, ha, -⟩ | ⟨hst, -, -⟩
      · exact ⟨_, rest, hh, .inr ⟨v, ha ▸ rfl⟩⟩
      · simp [hst] at hfall
    | reset rest ts hh => exact ⟨_, rest, hh, .inl rfl⟩

/-- Settles O23: the first check of ENCRYPT that fails is the one reported, before anything is written. -/
theorem encryptReportsTheFirstFailingCheck : Obligations.EncryptReportsTheFirstFailingCheck := by
  intro s
  refine ⟨fun hctx => ⟨s.fresh, ?noContext⟩, fun hctx hx => ⟨s.fresh, ?length⟩,
    fun hctx hx hcap => ⟨s.fresh, ?capacity⟩⟩
  case noContext => exact exec_encrypt_of_no_context hctx
  case length => exact (exec_encrypt_of_context hctx).trans (congrArg _ (if_pos hx))
  case capacity =>
    exact (exec_encrypt_of_context hctx).trans (congrArg _ ((if_neg (not_not.2 hx)).trans (if_pos hcap)))

/-- Settles O24: the first check of DECRYPT that fails is the one reported, before anything is written. -/
theorem decryptReportsTheFirstFailingCheck : Obligations.DecryptReportsTheFirstFailingCheck := by
  intro s
  refine ⟨fun hctx => ⟨s.fresh, ?noContext⟩, fun hctx hlen => ⟨s.fresh, ?length⟩,
    fun hctx h0 hmod hcap => ⟨s.fresh, ?capacity⟩⟩
  case noContext => exact exec_decrypt_of_no_context hctx
  case length => exact (exec_decrypt_of_context hctx).trans (congrArg _ (if_pos hlen))
  case capacity =>
    have hlen : ¬(inputLength s = 0 ∨ inputLength s % 16 ≠ 0) := not_or.2 ⟨h0, not_not.2 hmod⟩
    exact (exec_decrypt_of_context hctx).trans (congrArg _ ((if_neg hlen).trans (if_pos hcap)))

/-- Settles O33: a failing completion is error entry on the state at issue, or on that state with the OBUF bytes stored. -/
theorem errorsArePrecise : Obligations.ErrorsArePrecise := by
  intro s t k h hk
  obtain ⟨c, hc⟩ := completed_of_complete h
  rcases hc.eq_fail hk with ⟨-, rfl⟩ | ⟨rfl, -, out, rfl⟩
  · exact ⟨rfl, rfl, rfl, rfl, rfl, rfl, rfl, rfl, rfl, rfl, rfl, fun _ => rfl, rfl, rfl, rfl⟩
  · exact ⟨rfl, rfl, rfl, rfl, rfl, rfl, rfl, rfl, rfl, rfl, rfl, fun hne => absurd rfl hne, rfl, rfl, rfl⟩

/-- Settles O34: a failed command leaves its operands alone, so issued again it shows the host the same. -/
theorem failedCommandFailsAgain : Obligations.FailedCommandFailsAgain := by
  intro c s t k h hk
  obtain ⟨u, hu, -⟩ := exec_completed c (issue (encode c) t)
  obtain ⟨hview, -, -⟩ := ((exec_cases h).sameOperands_issue hk (encode c)).sameShown h hu
  have hku : u.errcode = .failed k := (congrArg HostView.errcode hview).symm.trans hk
  exact ⟨u, hu, hku, hview.symm, read_obuf_of_failed_again h hk hu hku⟩

/-- Settles O41: every event keeps the capacity. -/
theorem everyStepAnswersANextState : Obligations.EveryStepAnswersANextState := by
  intro s
  obtain ⟨t, h, -⟩ := step_stepped s
  refine ⟨t, h, ?_⟩
  cases step_event h with
  | quiet | reset => rfl
  | completed i ts _ _ hc =>
    obtain ⟨-, -, hcap, -⟩ := hc.sameSurroundings
    exact hcap
  | write a v rest ts _ _ hw => cases hw <;> rfl

end Sys2Proof.Proofs

/-! SUPPORT. Fairness (70_reset_and_hazards.md R236): the host's operations add no turn, so a busy core moves before the
listed turns have run out, or next after that (Log 1). -/

namespace Sys2Proof.Machine

variable {s u : State} {n : Nat}

/-! ## The host's operations add no turn -/

theorem Written.turns_eq {a v : Word} (h : Written a v s u) : u.turns = s.turns := by
  cases h <;> rfl

theorem DiffersAtPort.turns_eq (h : DiffersAtPort s u) : u.turns = s.turns := by rw [h]

theorem hostStep_turns (op : HostOp) (s : State) : (hostStep op s).turns = s.turns := by
  by_cases hop : op = .reset
  · rw [hop]
    rfl
  · rcases write_or_differsAtPort hop s with ⟨a, v, rfl⟩ | h
    · exact (hostWrite_written a v s).turns_eq
    · exact h.turns_eq

theorem hostTurn_next (s : State) : ∃ t, hostTurn s = .next t ∧ t.turns = s.turns := by
  cases hh : s.host with
  | nil => exact ⟨s, hostTurn_nil hh, rfl⟩
  | cons op rest => exact ⟨_, hostTurn_cons hh, hostStep_turns op _⟩

/-! ## Runs that end idle -/

/-- The core is idle after some number of steps, at most `n`. -/
def IdleWithin (n : Nat) (s : State) : Prop :=
  ∃ k t, k ≤ n ∧ Host.Core.run core k s = .next t ∧ t.status.busy = false

theorem idleWithin_of_idle (n : Nat) (h : s.status.busy = false) : IdleWithin n s := ⟨0, s, n.zero_le, rfl, h⟩

theorem run_succ_of_step {M : Host.Core} {s u : M.State} (h : M.step s = .next u) (k : Nat) :
    M.run (k + 1) s = M.run k u := by
  rw [Host.Core.run, h]

theorem IdleWithin.of_step (h : step s = .next u) (hu : IdleWithin n u) : IdleWithin (n + 1) s := by
  obtain ⟨k, t, hk, hrun, ht⟩ := hu
  exact ⟨k + 1, t, Nat.succ_le_succ hk, (run_succ_of_step (M := core) h k).trans hrun, ht⟩

/-- A completion clears BUSY (R161). -/
theorem idleWithin_of_step_eq_complete (n : Nat) (h : step s = complete u) : IdleWithin (n + 1) s := by
  obtain ⟨t, ht⟩ := complete_next u
  obtain ⟨i, hc⟩ := completed_of_complete ht
  exact (idleWithin_of_idle n hc.status.1).of_step (h.trans ht)

/-- By induction on the turns: a turn of the core completes the command, a turn of the host uses up one turn. -/
theorem idleWithin_turns (s : State) : IdleWithin (s.turns.length + 1) s := by
  cases hb : s.status.busy with
  | false => exact idleWithin_of_idle _ hb
  | true =>
    induction hts : s.turns generalizing s with
    | nil => exact idleWithin_of_step_eq_complete _ (step_of_turns_nil_busy hts hb)
    | cons agent rest ih =>
      cases agent with
      | core => exact idleWithin_of_step_eq_complete _ (step_of_turns_core_busy hts hb)
      | host =>
        obtain ⟨t, ht, hrest⟩ := hostTurn_next { s with turns := rest }
        refine IdleWithin.of_step ((step_of_turns_host hts).trans ht) ?_
        cases hbt : t.status.busy with
        | false => exact idleWithin_of_idle _ hbt
        | true => exact ih t hbt hrest

end Sys2Proof.Machine

/-! PROOFS. The statements about reset and timing (70_reset_and_hazards.md). -/

namespace Sys2Proof.Proofs

open Sys2Proof.Machine

/-- Settles O8: the turns listed bound the number of steps until a completion, or a reset, clears BUSY. -/
theorem busyAlwaysEnds : Obligations.BusyAlwaysEnds := fun s _ => idleWithin_turns s

/-- Settles O10: the registers and buffers are those of `State.reset`, read off field by field. -/
theorem resetStepClearsTheCore : Obligations.ResetStepClearsTheCore := fun _ =>
  ⟨rfl, rfl, rfl, rfl, rfl, rfl, rfl, rfl, rfl, rfl, rfl, fun _ => ⟨rfl, rfl⟩⟩

/-- Settles O11: the Reset step leaves the core idle, so no completion follows, and takes no field of the core from the
state before; a fall of BUSY that is no reset is a completion, which sets DONE. -/
theorem resetAbortsTheCommandInFlight : Obligations.ResetAbortsTheCommandInFlight := by
  refine ⟨fun s _ => ?aborted, fun s u => ?sameCore, fun s t h hb hidle hdone => ?onlyReset⟩
  case aborted =>
    obtain ⟨-, -, -, hstatus, herr, -, -, -, -, -, -, hbytes⟩ := resetStepClearsTheCore s
    exact ⟨hstatus, herr, coreTurn_idle (congrArg Status.busy hstatus), fun i => (hbytes i).2⟩
  case sameCore => exact ⟨rfl, rfl, rfl, rfl, rfl, rfl, rfl, rfl, rfl, rfl, rfl, rfl, rfl⟩
  case onlyReset =>
    obtain ⟨-, hfall⟩ := busyChangesOnlyAtIssueCompletionReset s t h
    rcases hfall hb hidle with hcompleted | ⟨rest, hh, -⟩
    · exact absurd hcompleted (by simp [hdone])
    · exact ⟨rest, hh⟩

end Sys2Proof.Proofs

/-! PROOFS. The statement about the vectors the source itself gives (95_test_vectors.md section 2). -/

namespace Sys2Proof.Proofs

open Sys2Proof.Machine

/-- Settles O54: V1 runs the ten rounds of the key schedule, V2 the ten rounds of EncryptBlock under the whole schedule. Both
are closed, so the kernel evaluates the model on them. -/
theorem theSourcesTwoVectors : Obligations.TheSourcesTwoVectors := by
  refine ⟨?roundKeyTen, ?encryptedBlock⟩
  case roundKeyTen => decide +kernel
  case encryptedBlock => decide +kernel

end Sys2Proof.Proofs
